-- ==== Sys2Proof/Word.lean ====
section
/-! DEFINITION. The widths of the machine (00_scope.md R7, R9, R10): bytes, 16-bit words, 12-bit addresses, register,
key and count numbers. All values are unsigned. -/

namespace Sys2Proof

/-- A register, timer, flag-scratch or memory byte: 8 bits (R10). -/
abbrev Byte := BitVec 8

/-- `pc`, `I`, a stack entry or an instruction word: 16 bits (R10). -/
abbrev Word := BitVec 16

/-- The `nnn` field of an instruction word: 12 bits (30_encoding.md R86). -/
abbrev Addr := BitVec 12

/-- A register number 0..15, as the `x` and `y` fields name one (30_encoding.md R86). -/
abbrev Reg := Fin 16

/-- The 4-bit count `n` of a scroll or of a sprite's height (30_encoding.md R86). -/
abbrev Count := Fin 16

/-- A key number 0..15 (10_state.md R32). -/
abbrev Key := Fin 16

/-- `VF`, register 15 (10_state.md R21). -/
abbrev VF : Reg := 15

end Sys2Proof
end

