-- ==== Sys2Proof/Syntax.lean ====
section
/-! DEFINITION. The instructions: one constructor per mnemonic of spec/opcode_table.json, which has two rows (00E0 and
0230) for the one instruction CLS (30_encoding.md R91, R93). -/

namespace Sys2Proof

/-- An instruction, in the order of the table; each docstring names the row and the rule of its meaning. -/
inductive Instr where
  /-- `CLS`, R212 (and the second word 0230, R214). -/
  | cls
  /-- `RET`, R122. -/
  | ret
  /-- `SCD n`, R220. -/
  | scd (n : Count)
  /-- `SCR`, R222. -/
  | scr
  /-- `SCL`, R224. -/
  | scl
  /-- `LORES`, R216. -/
  | lores
  /-- `HIRES`, R218. -/
  | hires
  /-- `SYS addr`, R117. -/
  | sys (addr : Addr)
  /-- `JP addr`, R118. -/
  | jp (addr : Addr)
  /-- `CALL addr`, R121. -/
  | call (addr : Addr)
  /-- `SE Vx,kk`, R126. -/
  | seImm (x : Reg) (kk : Byte)
  /-- `SNE Vx,kk`, R127. -/
  | sneImm (x : Reg) (kk : Byte)
  /-- `SE Vx,Vy`, R128. -/
  | seReg (x y : Reg)
  /-- `LD Vx,kk`, R141. -/
  | ldImm (x : Reg) (kk : Byte)
  /-- `ADD Vx,kk`, R142. -/
  | addImm (x : Reg) (kk : Byte)
  /-- `LD Vx,Vy`, R143. -/
  | ldReg (x y : Reg)
  /-- `OR Vx,Vy`, R147. -/
  | orReg (x y : Reg)
  /-- `AND Vx,Vy`, R148. -/
  | andReg (x y : Reg)
  /-- `XOR Vx,Vy`, R149. -/
  | xorReg (x y : Reg)
  /-- `ADD Vx,Vy`, R144. -/
  | addReg (x y : Reg)
  /-- `SUB Vx,Vy`, R145. -/
  | sub (x y : Reg)
  /-- `SHR Vx,Vy`, R152. -/
  | shr (x y : Reg)
  /-- `SUBN Vx,Vy`, R146. -/
  | subn (x y : Reg)
  /-- `SHL Vx,Vy`, R155. -/
  | shl (x y : Reg)
  /-- `SNE Vx,Vy`, R129. -/
  | sneReg (x y : Reg)
  /-- `LD I,addr`, R171. -/
  | ldI (addr : Addr)
  /-- `JP Vx,addr`, R125; a word names it only when `x = addr[11:8]` (90_conflicts.md C4). -/
  | jpV (x : Reg) (addr : Addr)
  /-- `RND Vx,kk`, R206. -/
  | rnd (x : Reg) (kk : Byte)
  /-- `DRW Vx,Vy,0`, the 16x16 sprite, R230. -/
  | drw16 (x y : Reg)
  /-- `DRW Vx,Vy,n` with `n != 0`, R226. -/
  | drw (x y : Reg) (n : Count)
  /-- `SKP Vx`, R198. -/
  | skp (x : Reg)
  /-- `SKNP Vx`, R200. -/
  | sknp (x : Reg)
  /-- `LD Vx,DT`, R190. -/
  | ldVxDt (x : Reg)
  /-- `LD Vx,K`, R202. -/
  | ldVxK (x : Reg)
  /-- `LD DT,Vx`, R192. -/
  | ldDtVx (x : Reg)
  /-- `LD ST,Vx`, R194. -/
  | ldStVx (x : Reg)
  /-- `ADD I,Vx`, R165. -/
  | addI (x : Reg)
  /-- `LD F,Vx`, R172. -/
  | ldF (x : Reg)
  /-- `LD HF,Vx`, R174. -/
  | ldHF (x : Reg)
  /-- `LD B,Vx`, R176. -/
  | ldB (x : Reg)
  /-- `LD [I],Vx`, R178. -/
  | ldStore (x : Reg)
  /-- `LD Vx,[I]`, R180. -/
  | ldLoad (x : Reg)
  /-- `SAVE Vx`, R184. -/
  | save (x : Reg)
  /-- `LOAD Vx`, R186. -/
  | load (x : Reg)
deriving DecidableEq, Repr

/-- Why bytes are no instruction. -/
inductive DecodeError where
  /-- The word matches no row of the opcode map (30_encoding.md R96). -/
  | noRow (w : Word)
  /-- Fewer than two bytes: no instruction is shorter than one word (30_encoding.md R85). -/
  | tooShort
deriving DecidableEq, Repr

end Sys2Proof
end

