-- ==== Sys2Proof/WellFormed.lean ====
section
/-! DEFINITION. Which instructions a word can encode (30_encoding.md R98, "representable"). The operand widths are in the
types; the three checks are those of the rows that another row overlaps or whose fields overlap. -/

namespace Sys2Proof

/-- The low 12 bits of the 0x0 words that a more specific row claims, so that `SYS` never has them (R94). -/
def claimedSysAddr (addr : Addr) : Bool :=
  addr == 0x0E0 || addr == 0x230 || addr == 0x0EE || (0x0C0 ≤ addr.toNat && addr.toNat ≤ 0x0CF) ||
    addr == 0x0FB || addr == 0x0FC || addr == 0x0FE || addr == 0x0FF

/-- `addr[11:8]`, the register number inside an address field (30_encoding.md R88). -/
def addrReg (addr : Addr) : Reg := Fin.ofNat 16 (addr.toNat / 256)

/-- The instruction is the decoding of some word. -/
def Instr.wellFormed : Instr → Bool
  | .sys addr => !claimedSysAddr addr
  | .jpV x addr => x == addrReg addr
  | .drw _ _ n => n != 0
  | .cls | .ret | .scd _ | .scr | .scl | .lores | .hires | .jp _ | .call _ | .seImm _ _ | .sneImm _ _ | .seReg _ _
  | .ldImm _ _ | .addImm _ _ | .ldReg _ _ | .orReg _ _ | .andReg _ _ | .xorReg _ _ | .addReg _ _ | .sub _ _
  | .shr _ _ | .subn _ _ | .shl _ _ | .sneReg _ _ | .ldI _ | .rnd _ _ | .drw16 _ _ | .skp _ | .sknp _ | .ldVxDt _
  | .ldVxK _ | .ldDtVx _ | .ldStVx _ | .addI _ | .ldF _ | .ldHF _ | .ldB _ | .ldStore _ | .ldLoad _ | .save _
  | .load _ => true

end Sys2Proof
end

