-- ==== Sys2Proof/Decode.lean ====
section
/-! DEFINITION. The decoder `parse` of 30_encoding.md R92, total over every 16-bit word and over every byte list, and
the encoder of R98, written from the opcode map R91. -/

namespace Sys2Proof

/-! ### Fields of an instruction word (R86) -/

/-- `v[lo+len-1:lo]` as a number (00_scope.md R9). -/
def bitField (w : Word) (lo len : Nat) : Nat := w.toNat / 2 ^ lo % 2 ^ len

/-- The major opcode, `op[15:12]`. -/
def fieldO (w : Word) : Nat := bitField w 12 4
/-- `op[11:8]`. -/
def fieldX (w : Word) : Reg := Fin.ofNat 16 (bitField w 8 4)
/-- `op[7:4]`. -/
def fieldY (w : Word) : Reg := Fin.ofNat 16 (bitField w 4 4)
/-- `op[3:0]`. -/
def fieldN (w : Word) : Count := Fin.ofNat 16 (bitField w 0 4)
/-- `op[7:0]`. -/
def fieldKK (w : Word) : Byte := BitVec.ofNat 8 (bitField w 0 8)
/-- `op[11:0]`. -/
def fieldNNN (w : Word) : Addr := BitVec.ofNat 12 (bitField w 0 12)

/-! ### The decoder -/

/-- Major opcode 0: the exact words and `SCD` before the `SYS addr` fallback (R90, R92, R94). -/
def parse0 (w : Word) : Instr :=
  if w = 0x00E0 then .cls
  else if w = 0x0230 then .cls
  else if w = 0x00EE then .ret
  else if bitField w 4 12 = 0x00C then .scd (fieldN w)
  else if w = 0x00FB then .scr
  else if w = 0x00FC then .scl
  else if w = 0x00FE then .lores
  else if w = 0x00FF then .hires
  else .sys (fieldNNN w)

/-- Major opcode 8, by `n` (R92). -/
def parse8 (w : Word) : Except DecodeError Instr :=
  match bitField w 0 4 with
  | 0x0 => .ok (.ldReg (fieldX w) (fieldY w))
  | 0x1 => .ok (.orReg (fieldX w) (fieldY w))
  | 0x2 => .ok (.andReg (fieldX w) (fieldY w))
  | 0x3 => .ok (.xorReg (fieldX w) (fieldY w))
  | 0x4 => .ok (.addReg (fieldX w) (fieldY w))
  | 0x5 => .ok (.sub (fieldX w) (fieldY w))
  | 0x6 => .ok (.shr (fieldX w) (fieldY w))
  | 0x7 => .ok (.subn (fieldX w) (fieldY w))
  | 0xE => .ok (.shl (fieldX w) (fieldY w))
  | _ => .error (.noRow w)

/-- Major opcode E, by `kk` (R92). -/
def parseE (w : Word) : Except DecodeError Instr :=
  match bitField w 0 8 with
  | 0x9E => .ok (.skp (fieldX w))
  | 0xA1 => .ok (.sknp (fieldX w))
  | _ => .error (.noRow w)

/-- Major opcode F, by `kk` (R92). -/
def parseF (w : Word) : Except DecodeError Instr :=
  match bitField w 0 8 with
  | 0x07 => .ok (.ldVxDt (fieldX w))
  | 0x0A => .ok (.ldVxK (fieldX w))
  | 0x15 => .ok (.ldDtVx (fieldX w))
  | 0x18 => .ok (.ldStVx (fieldX w))
  | 0x1E => .ok (.addI (fieldX w))
  | 0x29 => .ok (.ldF (fieldX w))
  | 0x30 => .ok (.ldHF (fieldX w))
  | 0x33 => .ok (.ldB (fieldX w))
  | 0x55 => .ok (.ldStore (fieldX w))
  | 0x65 => .ok (.ldLoad (fieldX w))
  | 0x75 => .ok (.save (fieldX w))
  | 0x85 => .ok (.load (fieldX w))
  | _ => .error (.noRow w)

/-- `parse` (R92): the instruction of a word, or the rejection of an illegal one (R96). It reads nothing but the word
(R89). -/
def parse (w : Word) : Except DecodeError Instr :=
  match fieldO w with
  | 0x0 => .ok (parse0 w)
  | 0x1 => .ok (.jp (fieldNNN w))
  | 0x2 => .ok (.call (fieldNNN w))
  | 0x3 => .ok (.seImm (fieldX w) (fieldKK w))
  | 0x4 => .ok (.sneImm (fieldX w) (fieldKK w))
  | 0x5 => if bitField w 0 4 = 0 then .ok (.seReg (fieldX w) (fieldY w)) else .error (.noRow w)
  | 0x6 => .ok (.ldImm (fieldX w) (fieldKK w))
  | 0x7 => .ok (.addImm (fieldX w) (fieldKK w))
  | 0x8 => parse8 w
  | 0x9 => if bitField w 0 4 = 0 then .ok (.sneReg (fieldX w) (fieldY w)) else .error (.noRow w)
  | 0xA => .ok (.ldI (fieldNNN w))
  | 0xB => .ok (.jpV (fieldX w) (fieldNNN w))
  | 0xC => .ok (.rnd (fieldX w) (fieldKK w))
  | 0xD =>
    if bitField w 0 4 = 0 then .ok (.drw16 (fieldX w) (fieldY w)) else .ok (.drw (fieldX w) (fieldY w) (fieldN w))
  | 0xE => parseE w
  | 0xF => parseF w
  | _ => .error (.noRow w)

/-- The big-endian word of two bytes, the one at the lower address first (20_memory.md R67, R70). -/
def wordOfBytes (hi lo : Byte) : Word := BitVec.ofNat 16 (hi.toNat * 256 + lo.toNat)

/-- The two bytes of a word as memory stores them, lower address first (20_memory.md R67). -/
def bytesOfWord (w : Word) : List Byte := [BitVec.ofNat 8 (bitField w 8 8), BitVec.ofNat 8 (bitField w 0 8)]

/-- The instruction at the head of a byte list and the bytes after it (R85). -/
def decodeBytes : List Byte → Except DecodeError (Instr × List Byte)
  | hi :: lo :: rest =>
    match parse (wordOfBytes hi lo) with
    | .ok i => .ok (i, rest)
    | .error e => .error e
  | _ => .error .tooShort

/-! ### The encoder -/

/-- Format NNN: `oooo nnnn nnnn nnnn` (R87). -/
def wordNNN (o : Nat) (addr : Addr) : Word := BitVec.ofNat 16 (o * 4096 + addr.toNat)
/-- Format XKK: `oooo xxxx kkkk kkkk`. -/
def wordXKK (o : Nat) (x : Reg) (kk : Byte) : Word := BitVec.ofNat 16 (o * 4096 + x.val * 256 + kk.toNat)
/-- Formats XY and XYN: `oooo xxxx yyyy nnnn`, with `n` a field or fixed. -/
def wordXYN (o : Nat) (x y : Reg) (n : Nat) : Word := BitVec.ofNat 16 (o * 4096 + x.val * 256 + y.val * 16 + n)
/-- Format X: `oooo xxxx ffff ffff`. -/
def wordX (o : Nat) (x : Reg) (f : Nat) : Word := BitVec.ofNat 16 (o * 4096 + x.val * 256 + f)

/-- `encode` (R98): the row of the opcode map R91 with the operand fields filled in, and `encode(CLS) = 0x00E0`. -/
def encode : Instr → Word
  | .cls => 0x00E0
  | .ret => 0x00EE
  | .scd n => BitVec.ofNat 16 (0x00C0 + n.val)
  | .scr => 0x00FB
  | .scl => 0x00FC
  | .lores => 0x00FE
  | .hires => 0x00FF
  | .sys addr => wordNNN 0x0 addr
  | .jp addr => wordNNN 0x1 addr
  | .call addr => wordNNN 0x2 addr
  | .seImm x kk => wordXKK 0x3 x kk
  | .sneImm x kk => wordXKK 0x4 x kk
  | .seReg x y => wordXYN 0x5 x y 0x0
  | .ldImm x kk => wordXKK 0x6 x kk
  | .addImm x kk => wordXKK 0x7 x kk
  | .ldReg x y => wordXYN 0x8 x y 0x0
  | .orReg x y => wordXYN 0x8 x y 0x1
  | .andReg x y => wordXYN 0x8 x y 0x2
  | .xorReg x y => wordXYN 0x8 x y 0x3
  | .addReg x y => wordXYN 0x8 x y 0x4
  | .sub x y => wordXYN 0x8 x y 0x5
  | .shr x y => wordXYN 0x8 x y 0x6
  | .subn x y => wordXYN 0x8 x y 0x7
  | .shl x y => wordXYN 0x8 x y 0xE
  | .sneReg x y => wordXYN 0x9 x y 0x0
  | .ldI addr => wordNNN 0xA addr
  | .jpV _ addr => wordNNN 0xB addr
  | .rnd x kk => wordXKK 0xC x kk
  | .drw16 x y => wordXYN 0xD x y 0x0
  | .drw x y n => wordXYN 0xD x y n.val
  | .skp x => wordX 0xE x 0x9E
  | .sknp x => wordX 0xE x 0xA1
  | .ldVxDt x => wordX 0xF x 0x07
  | .ldVxK x => wordX 0xF x 0x0A
  | .ldDtVx x => wordX 0xF x 0x15
  | .ldStVx x => wordX 0xF x 0x18
  | .addI x => wordX 0xF x 0x1E
  | .ldF x => wordX 0xF x 0x29
  | .ldHF x => wordX 0xF x 0x30
  | .ldB x => wordX 0xF x 0x33
  | .ldStore x => wordX 0xF x 0x55
  | .ldLoad x => wordX 0xF x 0x65
  | .save x => wordX 0xF x 0x75
  | .load x => wordX 0xF x 0x85

/-- The bytes of an instruction in memory, lower address first. -/
def encodeBytes (i : Instr) : List Byte := bytesOfWord (encode i)

/-! ### The host's view of the decoder -/

/-- The word of a table row's bits, numbered as spec/opcode_table.json numbers them: bit 0 is the least significant bit of
the one word an instruction has. Bits above `nbits` are 0. -/
def tableWord (nbits w : Nat) : Word := BitVec.ofNat 16 (w % 2 ^ nbits)

/-- The instruction the decoder reads from the bytes of a table row's word. -/
def decodeTableWord (nbits w : Nat) : Option Instr :=
  match decodeBytes (bytesOfWord (tableWord nbits w)) with
  | .ok (i, _) => some i
  | .error _ => none

end Sys2Proof
end

