-- ==== Sys2Proof/Config.lean ====
section
/-! DEFINITION. What the spec leaves to the implementation or to chance: the quirk record of 10_state.md R35 (a
construction argument) and the values no rule fixes, as constants with no body. -/

namespace Sys2Proof

/-- `QUIRKS`, seven independent booleans fixed at construction (10_state.md R35); every combination is legal. -/
structure Quirks where
  /-- `OR`, `AND`, `XOR` clear `VF` after the result. -/
  vfReset : Bool
  /-- `LD [I],Vx` and `LD Vx,[I]` advance `I` by `x+1`. -/
  memory : Bool
  /-- `DRW` costs a whole tick's budget. -/
  displayWait : Bool
  /-- `DRW` pixels beyond an edge wrap to the other edge. -/
  spriteWrapping : Bool
  /-- Stored, and read by nothing (R37). -/
  hiresDrawFlag : Bool
  /-- `SHR` and `SHL` shift `Vx` in place. -/
  shifting : Bool
  /-- `JP Vx,addr` adds `Vx` instead of `V0`. -/
  jumping : Bool
deriving DecidableEq, Repr

/-- Byte `k` (0..159) of the large font, the OPEN parameter BIG_FONT (20_memory.md R65). A free value: assumption 9. -/
opaque Config.bigFont : Nat → Byte

/-- ADDI_VF_CLEAR, the OPEN parameter of `ADD I,Vx` (41_alu.md R165): whether `VF` becomes 0 when the index does not
overflow. A free value: assumption 8. -/
opaque Config.addiVfClear : Bool

/-- The byte from which draw number `k` of `RND` is made (43_timers_input_random.md R206). A free value: assumption 11. -/
opaque Config.rndDraw : Nat → Byte

end Sys2Proof
end

