-- ==== Sys2Proof/Machine/Params.lean ====
section
/-! DEFINITION. The fixed parameters of this hardware (00_scope.md R7, R8), the three quirk presets (10_state.md R36),
the reset contents of memory (20_memory.md R63 to R66) and the construction arguments that `State.reset` takes. -/

namespace Sys2Proof.Machine

/-- Bytes of memory (R7, R60). -/
def memSize : Nat := 4096

/-- Where a program is loaded and where the machine starts (R24, R63, R272). -/
def programBase : Nat := 0x200

/-- The longest program the host may load (R272). -/
def programMax : Nat := 0xE00

/-- First byte of the large font (R65). -/
def bigFontBase : Nat := 0x050

/-- First byte after the two fonts (R63). -/
def fontEnd : Nat := 0x0F0

/-- SMALL_FONT, 16 glyphs of 5 bytes, the spec's own value (R64, decision D10): assumption 10. -/
def smallFont : List Byte :=
  ([0xF0, 0x90, 0x90, 0x90, 0xF0] : List Byte) ++ [0x20, 0x60, 0x20, 0x20, 0x70] ++
  [0xF0, 0x10, 0xF0, 0x80, 0xF0] ++ [0xF0, 0x10, 0xF0, 0x10, 0xF0] ++
  [0x90, 0x90, 0xF0, 0x10, 0x10] ++ [0xF0, 0x80, 0xF0, 0x10, 0xF0] ++
  [0xF0, 0x80, 0xF0, 0x90, 0xF0] ++ [0xF0, 0x10, 0x20, 0x40, 0x40] ++
  [0xF0, 0x90, 0xF0, 0x90, 0xF0] ++ [0xF0, 0x90, 0xF0, 0x10, 0xF0] ++
  [0xF0, 0x90, 0xF0, 0x90, 0x90] ++ [0xE0, 0x90, 0xE0, 0x90, 0xE0] ++
  [0xF0, 0x80, 0x80, 0x80, 0xF0] ++ [0xE0, 0x90, 0x90, 0x90, 0xE0] ++
  [0xF0, 0x80, 0xF0, 0x80, 0xF0] ++ [0xF0, 0x80, 0xF0, 0x80, 0x80]

/-- What an address that memory does not list reads as: the reset contents of R66 (small font, large font, 0). -/
def unlistedByte (a : Nat) : Byte :=
  if a < bigFontBase then smallFont.getD a 0
  else if a < fontEnd then Config.bigFont (a - bigFontBase)
  else 0

/-- The preset `chip8` (R36); its `hires_draw_flag` is unspecified, so it is an argument. Only `jumping` is the source's,
the other values are the spec's from general knowledge (decision D30): assumption 30. -/
def presetChip8 (hiresDrawFlag : Bool) : Quirks :=
  { vfReset := true, memory := true, displayWait := true, spriteWrapping := false, hiresDrawFlag := hiresDrawFlag,
    shifting := false, jumping := false }

/-- The preset `superchip` (R36), as `presetChip8`. -/
def presetSuperchip (hiresDrawFlag : Bool) : Quirks :=
  { vfReset := false, memory := false, displayWait := false, spriteWrapping := false, hiresDrawFlag := hiresDrawFlag,
    shifting := true, jumping := true }

/-- The preset `xochip` (R36); no value of it is the source's. -/
def presetXochip (hiresDrawFlag : Bool) : Quirks :=
  { vfReset := false, memory := true, displayWait := false, spriteWrapping := true, hiresDrawFlag := hiresDrawFlag,
    shifting := false, jumping := false }

/-- The `QUIRKS` argument of `State.reset`: every flag false, the convention of 95_test_vectors.md. DESIGN CHOICE, unsafe:
assumption 5. -/
def resetQuirks : Quirks :=
  { vfReset := false, memory := false, displayWait := false, spriteWrapping := false, hiresDrawFlag := false,
    shifting := false, jumping := false }

/-- The `CLOCK_SPEED` argument of `State.reset`: the one the programs of 95_test_vectors.md section 3 use most (a budget
of 800 cycles). DESIGN CHOICE, unsafe: assumption 6. -/
def resetClockSpeed : Nat := 4800000

/-- STACK_DEPTH of this hardware: unbounded (R8, R25): assumption 7. -/
def resetStackDepth : Option Nat := none

end Sys2Proof.Machine
end

