-- ==== Sys2Proof/Machine/State.lean ====
section
/-! DEFINITION. The state of the CORE (10_state.md R42), the faults it records (60_exceptions.md R240), the host's
transactions (R270) and the state after reset (70_reset_and_hazards.md R290). -/

namespace Sys2Proof.Machine

/-- The faults of the CORE (R240). Each is recorded in the state's `fault` field by a step that answers a next state and
writes nothing else (R241), after which the machine does nothing (R257); no step answers `Host.Outcome.fault`, because
the spec gives every fault its effect: assumption 1. All three are SAFE: the machine stops where the chip may go on. -/
inductive Fault where
  /-- Raised by the step at `pc0` whose fetched word `w` matches no row of the decoder (R242). Safe. -/
  | decodeFault (pc0 : Word) (w : Word)
  /-- Raised by every executed `SYS addr` (R244, the spec's decision D4). Safe. -/
  | unmodelledSys (pc0 : Word) (addr : Addr)
  /-- Raised by `CALL` when a finite STACK_DEPTH is reached (R243); never at the source's unbounded depth. Safe. -/
  | stackOverflow (pc0 : Word)
deriving DecidableEq, Repr

/-- Why a step has no meaning. -/
inductive Refusal where
  /-- Raised by `exec` for an instruction that has no meaning yet; no arm of `exec` raises it any more. Safe. -/
  | notModelled (mnemonic : String)
  /-- Raised by the host transactions `keydown(k)` and `keyup(k)` with `k > 15` (R273, R274): assumption 4. Safe. -/
  | keyOutOfRange (k : Nat)
  /-- Raised by the host transaction `load_program` with more than 0xE00 bytes (R272): assumption 4. Safe. -/
  | programTooLong (len : Nat)
deriving DecidableEq, Repr

/-- The host's transactions on a constructed machine that change its state (R270); `construct` is `State.construct` and
observing is `State.observe`. -/
inductive Transaction where
  /-- Run one frame (R258). -/
  | tick
  /-- Copy bytes to memory at 0x200 (R272). -/
  | loadProgram (bytes : List Byte)
  /-- Set key `k` (R273). -/
  | keydown (k : Nat)
  /-- Clear key `k` (R274). -/
  | keyup (k : Nat)
  /-- Add a breakpoint (R275). -/
  | setBreakpoint (addr : Word)
  /-- Remove a breakpoint (R276). -/
  | removeBreakpoint (addr : Word)
  /-- Clear `HALTED` (R277). -/
  | resume
deriving DecidableEq, Repr

/-- The state of the CORE (R42), with the parameter STACK_DEPTH and the model's own fields `rndCount` and `hostCalls`. -/
structure State where
  /-- `V[0..15]` (R20). -/
  v : Vector Byte 16
  /-- `I` (R23). -/
  i : Word
  /-- `pc` (R24). -/
  pc : Word
  /-- `STACK`, oldest first (R25). -/
  stack : List Word
  /-- `DT` (R26). -/
  dt : Byte
  /-- `ST` (R27). -/
  st : Byte
  /-- `FLAGS[0..7]` (R28). -/
  flags : Vector Byte 8
  /-- `RUNNING` (R29). -/
  running : Bool
  /-- `HIRES`: 128x64 when true, 64x32 when false (R30). -/
  hires : Bool
  /-- `VRAM`, `W*H` pixels, row-major (R31). -/
  vram : List Bool
  /-- `KEYS[0..15]` (R32). -/
  keys : Vector Bool 16
  /-- `M`: the bytes that differ from the reset contents, addresses strictly rising (20_memory.md R60). -/
  mem : List Host.Cell
  /-- `BREAKPOINTS`, strictly rising (R33). -/
  breakpoints : List Word
  /-- `HALTED` (R34). -/
  halted : Bool
  /-- `QUIRKS` (R35). -/
  quirks : Quirks
  /-- `CLOCK_SPEED` (R38). -/
  clockSpeed : Nat
  /-- `FAULT` (R39). -/
  fault : Option Fault
  /-- `ACC` (R40): the cycles the running tick has used; `none` between ticks, where it does not exist. -/
  acc : Option Nat
  /-- STACK_DEPTH (R8, R25): `none` is unbounded. -/
  stackDepth : Option Nat
  /-- The model's own: how many draws `RND` has taken (assumption 11). -/
  rndCount : Nat
  /-- The model's own: the host's transactions still to come, first first; with none left the host calls `tick`
  (assumption 3). -/
  hostCalls : List Transaction
deriving DecidableEq, Repr

/-- `construct(QUIRKS, CLOCK_SPEED)` (R271): every other field at its reset value (R290, R291). -/
def State.construct (quirks : Quirks) (clockSpeed : Nat) : State :=
  { v := Vector.replicate 16 0
    i := 0
    pc := BitVec.ofNat 16 programBase
    stack := []
    dt := 0
    st := 0
    flags := Vector.replicate 8 0
    running := true
    hires := false
    vram := List.replicate 2048 false
    keys := Vector.replicate 16 false
    mem := []
    breakpoints := []
    halted := false
    quirks := quirks
    clockSpeed := clockSpeed
    fault := none
    acc := none
    stackDepth := resetStackDepth
    rndCount := 0
    hostCalls := [] }

/-- The machine right after reset, constructed with the arguments of assumptions 5 and 6. -/
def State.reset : State := State.construct resetQuirks resetClockSpeed

end Sys2Proof.Machine
end

