-- ==== Sys2Proof/Machine/Ops.lean ====
section
/-! DEFINITION. The named operations every meaning is written over: updates of one piece of state, memory, fetch, the
program counter, the call stack, the breakpoint set, and raising a fault. There is no return from a fault to stand beside
raising one (60_exceptions.md R249). -/

namespace Sys2Proof.Machine

/-- How an instruction or a step ends. -/
abbrev Result := Host.Outcome State Fault Refusal

/-! ### Updates of one piece of state -/

/-- `V[x] <- b` (10_state.md R20). -/
def State.setV (s : State) (x : Reg) (b : Byte) : State := { s with v := s.v.set x.val b x.isLt }
/-- All sixteen registers at once. -/
def State.setRegs (s : State) (v : Vector Byte 16) : State := { s with v := v }
/-- `I <- a`. -/
def State.setI (s : State) (a : Word) : State := { s with i := a }
/-- `pc <- a`. -/
def State.setPc (s : State) (a : Word) : State := { s with pc := a }
/-- The call stack. -/
def State.setStack (s : State) (l : List Word) : State := { s with stack := l }
/-- `DT <- b`. -/
def State.setDt (s : State) (b : Byte) : State := { s with dt := b }
/-- `ST <- b`. -/
def State.setSt (s : State) (b : Byte) : State := { s with st := b }
/-- The flag-save scratch. -/
def State.setFlags (s : State) (f : Vector Byte 8) : State := { s with flags := f }
/-- `RUNNING <- b`. -/
def State.setRunning (s : State) (b : Bool) : State := { s with running := b }
/-- `HIRES <- b`, which also selects `W` and `H` (10_state.md R30). -/
def State.setHires (s : State) (b : Bool) : State := { s with hires := b }
/-- `VRAM <- p`. -/
def State.setVram (s : State) (p : List Bool) : State := { s with vram := p }
/-- `KEYS[k] <- b` (R32). -/
def State.setKey (s : State) (k : Key) (b : Bool) : State := { s with keys := s.keys.set k.val b k.isLt }
/-- The memory. -/
def State.setMem (s : State) (m : List Host.Cell) : State := { s with mem := m }
/-- `BREAKPOINTS`. -/
def State.setBreakpoints (s : State) (l : List Word) : State := { s with breakpoints := l }
/-- `HALTED <- b`. -/
def State.setHalted (s : State) (b : Bool) : State := { s with halted := b }
/-- `FAULT <- f`. -/
def State.setFault (s : State) (f : Option Fault) : State := { s with fault := f }
/-- `ACC` of the running tick, or none between ticks. -/
def State.setAcc (s : State) (a : Option Nat) : State := { s with acc := a }
/-- The number of draws taken. -/
def State.setRndCount (s : State) (n : Nat) : State := { s with rndCount := n }
/-- The host's transactions still to come. -/
def State.setHostCalls (s : State) (l : List Transaction) : State := { s with hostCalls := l }
/-- `CLOCK_SPEED`; no instruction and no transaction uses it, only `State.withFetchWord`. -/
def State.setClockSpeed (s : State) (n : Nat) : State := { s with clockSpeed := n }

/-! ### Memory (20_memory.md) -/

/-- The byte at a listed or unlisted address. -/
def Memory.read : List Host.Cell → Nat → Byte
  | [], a => unlistedByte a
  | (k, b) :: rest, a => if k = a then b else Memory.read rest a

/-- The memory with one byte written, keeping the canonical form. -/
def Memory.write : List Host.Cell → Nat → Byte → List Host.Cell
  | [], a, b => if b = unlistedByte a then [] else [(a, b)]
  | (k, c) :: rest, a, b =>
    if k < a then (k, c) :: Memory.write rest a b
    else if k = a then (if b = unlistedByte a then rest else (a, b) :: rest)
    else (if b = unlistedByte a then (k, c) :: rest else (a, b) :: (k, c) :: rest)

/-- The canonical form from address `lo` on: addresses strictly rising, inside memory, and no entry equal to what the
address reads as unlisted. -/
def Memory.wfFrom : Nat → List Host.Cell → Bool
  | _, [] => true
  | lo, (a, b) :: rest => decide (lo ≤ a) && decide (a < memSize) && b != unlistedByte a && Memory.wfFrom (a + 1) rest

/-- The memory is in its canonical form. -/
def Memory.wf (m : List Host.Cell) : Bool := Memory.wfFrom 0 m

/-- `MemRead(a, 1)`: every address is taken modulo 4096 (R61). -/
def State.readByte (s : State) (a : Nat) : Byte := Memory.read s.mem (a % memSize)

/-- `MemWrite(a, 1, b)` (R61). -/
def State.writeByte (s : State) (a : Nat) (b : Byte) : State := s.setMem (Memory.write s.mem (a % memSize) b)

/-- Consecutive bytes from `a` on, ascending; byte `k` goes to `(a + k) mod 4096` (R62). -/
def Memory.writeRun : List Host.Cell → Nat → List Byte → List Host.Cell
  | m, _, [] => m
  | m, a, b :: rest => Memory.writeRun (Memory.write m (a % memSize) b) (a + 1) rest

/-- `MemWrite` of a run of bytes (R62). -/
def State.writeRun (s : State) (a : Nat) (bs : List Byte) : State := s.setMem (Memory.writeRun s.mem a bs)

/-- `Fetch(pc)`: the big-endian word at `pc` and `pc+1` (R67, R70). -/
def State.fetch (s : State) : Word := wordOfBytes (s.readByte s.pc.toNat) (s.readByte (s.pc.toNat + 1))

/-! ### Copying a run of bytes into a register file -/

/-- `for k in 0 .. n-1: dst[k] <- f k`, ascending. -/
def copyRun {m : Nat} (f : Nat → Byte) : Nat → Vector Byte m → Vector Byte m
  | 0, dst => dst
  | n + 1, dst => (copyRun f n dst).setIfInBounds n (f n)

/-! ### Program counter and stack (10_state.md R24, R25) -/

/-- `pc0`, the address of the executing instruction: during execute `pc` is that plus 2 (R24). -/
def State.pc0 (s : State) : Word := s.pc - 2

/-- `pc <- u16(pc + 2)`: the advance of 40_control_flow.md R113, and also the skip of R116. -/
def State.advancePc (s : State) : State := s.setPc (s.pc + 2)

/-- Skip the next instruction when the condition holds (R116). -/
def State.skipIf (s : State) (c : Bool) : State := if c then s.advancePc else s

/-- The stack holds STACK_DEPTH entries, where that is finite (R25, R243). -/
def State.stackFull (s : State) : Bool :=
  match s.stackDepth with
  | none => false
  | some d => decide (d ≤ s.stack.length)

/-- `push(a)` appends (00_scope.md R10). -/
def State.push (s : State) (a : Word) : State := s.setStack (s.stack ++ [a])

/-! ### Faults (60_exceptions.md) -/

/-- `raise F(info)` (R241): the step writes `FAULT` and nothing else, so `pc` is the faulting instruction's address. The
fault is final (R249). -/
def State.raise (s : State) (f : Fault) (pc0 : Word) : State := (s.setPc pc0).setFault (some f)

/-! ### The breakpoint set (10_state.md R33) -/

/-- `BREAKPOINTS ∪ {a}`, kept strictly rising (60_exceptions.md R275). -/
def breakpointsInsert : List Word → Word → List Word
  | [], a => [a]
  | b :: rest, a =>
    if a.toNat < b.toNat then a :: b :: rest
    else if a = b then b :: rest
    else b :: breakpointsInsert rest a

/-- `BREAKPOINTS \ {a}` (R276). -/
def breakpointsErase : List Word → Word → List Word
  | [], _ => []
  | b :: rest, a => if a = b then breakpointsErase rest a else b :: breakpointsErase rest a

/-- Strictly rising, every value at least `lo`. -/
def breakpointsWfFrom : Nat → List Word → Bool
  | _, [] => true
  | lo, b :: rest => decide (lo ≤ b.toNat) && breakpointsWfFrom (b.toNat + 1) rest

/-- The breakpoint set is in its canonical form. -/
def breakpointsWf (l : List Word) : Bool := breakpointsWfFrom 0 l

/-! ### Video mode and tick budget -/

/-- `W` (10_state.md R30). -/
def State.width (s : State) : Nat := if s.hires then 128 else 64

/-- `H` (R30). -/
def State.height (s : State) : Nat := if s.hires then 64 else 32

/-- `B = CLOCK_SPEED / 6000` (60_exceptions.md R256). -/
def State.budget (s : State) : Nat := s.clockSpeed / 6000

end Sys2Proof.Machine
end

