-- ==== Sys2Proof/Machine/Operands.lean ====
section
/-! DEFINITION. Every operand form of the spec: registers, immediates, addresses, the index-indirect memory operand and its
post-modification, the glyph pointers, the decimal digits, the quirk-selected operands, the key operand and the random
draw. -/

namespace Sys2Proof.Machine

/-- The value of `V[x]` read at the start of the instruction. -/
def State.reg (s : State) (x : Reg) : Byte := s.v[x]

/-- `zext_16(addr)`: an address operand as a 16-bit value (30_encoding.md R88). -/
def addrWord (addr : Addr) : Word := BitVec.ofNat 16 addr.toNat

/-- The index-indirect address of byte `k` (42_memory_index.md R170); the access takes it modulo 4096. -/
def State.indexAddr (s : State) (k : Nat) : Nat := s.i.toNat + k

/-- `I + d`, masked to 12 bits (10_state.md R23, decision D17). -/
def State.maskedIndex (s : State) (d : Nat) : Word := BitVec.ofNat 16 ((s.i.toNat + d) % 4096)

/-- `if QUIRKS.memory: I <- (I + x + 1) & 0x0FFF` (42_memory_index.md R178, R180). -/
def State.postAdvanceIndex (s : State) (x : Reg) : State :=
  if s.quirks.memory then s.setI (s.maskedIndex (x.val + 1)) else s

/-- The bytes `V[0] .. V[x]`, ascending (R178). -/
def State.regsUpTo (s : State) (x : Reg) : List Byte := s.v.toList.take (x.val + 1)

/-- How many bytes `SAVE` and `LOAD` move: `min(x, 7) + 1`, by the register index `x` (R184, R186, 90_conflicts.md C3). -/
def scratchCount (x : Reg) : Nat := min x.val 7 + 1

/-- `5 * a`, a small-font glyph pointer; `a` is not reduced (R172). -/
def smallGlyph (a : Byte) : Word := BitVec.ofNat 16 (5 * a.toNat)

/-- `0x050 + 10 * a`, a large-font glyph pointer; `a` is not reduced (R174). -/
def bigGlyph (a : Byte) : Word := BitVec.ofNat 16 (bigFontBase + 10 * a.toNat)

/-- Hundreds, tens and ones of a byte (R176). -/
def decimalDigits (a : Byte) : List Byte :=
  [BitVec.ofNat 8 (a.toNat / 100), BitVec.ofNat 8 (a.toNat / 10 % 10), BitVec.ofNat 8 (a.toNat % 10)]

/-- The source operand of a shift: `Vx` under `shifting`, else `Vy` (41_alu.md R151). -/
def State.shiftSource (s : State) (x y : Reg) : Byte := if s.quirks.shifting then s.reg x else s.reg y

/-- The register `JP Vx,addr` adds: `Vx` under `jumping`, else `V0` (40_control_flow.md R125). -/
def State.jumpReg (s : State) (x : Reg) : Byte := if s.quirks.jumping then s.reg x else s.reg 0

/-- The key `SKP` and `SKNP` test: `Vx & 0xF` (43_timers_input_random.md R196). -/
def State.keyOperand (s : State) (x : Reg) : Key := Fin.ofNat 16 (s.reg x).toNat

/-- Key `k` is held. -/
def State.keyHeld (s : State) (k : Key) : Bool := s.keys[k]

/-- The least key held, from key `k` on among `n` keys (R202). -/
def leastKeyFrom (keys : Vector Bool 16) : Nat → Nat → Option Nat
  | 0, _ => none
  | n + 1, k => if keys.getD k false then some k else leastKeyFrom keys n (k + 1)

/-- The least key held, if any (R202). -/
def State.leastKey (s : State) : Option Nat := leastKeyFrom s.keys 16 0

/-- `draw RND(kk)`: a natural `r` with `0 <= r <= kk` (R206), made from the free byte of draw number `rndCount`; every `r`
in range is the draw of some free byte. Assumption 11. -/
def State.randomDraw (s : State) (kk : Byte) : Byte :=
  BitVec.ofNat 8 ((Config.rndDraw s.rndCount).toNat % (kk.toNat + 1))

end Sys2Proof.Machine
end

