-- ==== Sys2Proof/Machine/Flags.lean ====
section
/-! DEFINITION. Every computation of `VF`, the only flag (10_state.md R21): carry, no-borrow, the bit shifted out, index
overflow, the `vf_reset` clear, and the order of the two writes (R22). The collision flag is in Machine/Video.lean. -/

namespace Sys2Proof.Machine

/-- A flag as the byte `VF` holds: 1 or 0. -/
def flagByte (b : Bool) : Byte := if b then 1 else 0

/-- Carry of an addition: the true sum exceeds 255 (41_alu.md R140, R144). -/
def carryFlag (a b : Byte) : Byte := flagByte (decide (a.toNat + b.toNat > 255))

/-- No-borrow of `a - b`: the minuend is at least the subtrahend (R140, R145, R146). -/
def noBorrowFlag (a b : Byte) : Byte := flagByte (decide (b.toNat ≤ a.toNat))

/-- Bit 0, shifted out to the right (R152). -/
def shiftedOutRight (src : Byte) : Byte := BitVec.ofNat 8 (src.toNat % 2)

/-- Bit 7, shifted out to the left (R155). -/
def shiftedOutLeft (src : Byte) : Byte := BitVec.ofNat 8 (src.toNat / 128)

/-- The result is written first and the flag second, so `x = 15` ends holding the flag (10_state.md R22, decision D15). -/
def State.setResultFlag (s : State) (x : Reg) (result flag : Byte) : State := (s.setV x result).setV VF flag

/-- A logic result, and `VF <- 0` after it under `vf_reset` (R147 to R149, decision D40). -/
def State.setLogic (s : State) (x : Reg) (result : Byte) : State :=
  if s.quirks.vfReset then s.setResultFlag x result 0 else s.setV x result

/-- `VF` of `ADD I,Vx` (R165): 1 when the sum exceeds 0x0FFF; else 0 under ADDI_VF_CLEAR and unchanged without it. -/
def indexOverflowFlag (clear : Bool) (sum : Nat) (old : Byte) : Byte :=
  if sum > 0x0FFF then 1 else if clear then 0 else old

/-- `ADD I,Vx` for a given ADDI_VF_CLEAR (R165). -/
def State.addIndex (s : State) (clear : Bool) (a : Byte) : State :=
  (s.setI (s.maskedIndex a.toNat)).setV VF (indexOverflowFlag clear (s.i.toNat + a.toNat) (s.reg VF))

end Sys2Proof.Machine
end

