-- ==== Sys2Proof/Machine/Alu.lean ====
section
/-! DEFINITION. Register loads, arithmetic, logic, shifts and `ADD I,Vx` (41_alu.md R141 to R165). All arithmetic wraps
modulo 256 (R140). -/

namespace Sys2Proof.Machine

/-- `LD Vx,kk` (R141). -/
def execLdImm (x : Reg) (kk : Byte) (s : State) : Result := .next (s.setV x kk)

/-- `ADD Vx,kk` (R142): no flag. -/
def execAddImm (x : Reg) (kk : Byte) (s : State) : Result := .next (s.setV x (s.reg x + kk))

/-- `LD Vx,Vy` (R143). -/
def execLdReg (x y : Reg) (s : State) : Result := .next (s.setV x (s.reg y))

/-- `OR Vx,Vy` (R147). -/
def execOr (x y : Reg) (s : State) : Result := .next (s.setLogic x (s.reg x ||| s.reg y))

/-- `AND Vx,Vy` (R148). -/
def execAnd (x y : Reg) (s : State) : Result := .next (s.setLogic x (s.reg x &&& s.reg y))

/-- `XOR Vx,Vy` (R149). -/
def execXor (x y : Reg) (s : State) : Result := .next (s.setLogic x (s.reg x ^^^ s.reg y))

/-- `ADD Vx,Vy` (R144). -/
def execAddReg (x y : Reg) (s : State) : Result :=
  .next (s.setResultFlag x (s.reg x + s.reg y) (carryFlag (s.reg x) (s.reg y)))

/-- `SUB Vx,Vy` (R145): `Vx - Vy`. -/
def execSub (x y : Reg) (s : State) : Result :=
  .next (s.setResultFlag x (s.reg x - s.reg y) (noBorrowFlag (s.reg x) (s.reg y)))

/-- `SUBN Vx,Vy` (R146): `Vy - Vx`. -/
def execSubn (x y : Reg) (s : State) : Result :=
  .next (s.setResultFlag x (s.reg y - s.reg x) (noBorrowFlag (s.reg y) (s.reg x)))

/-- `SHR Vx,Vy` (R151, R152). -/
def execShr (x y : Reg) (s : State) : Result :=
  .next (s.setResultFlag x (s.shiftSource x y >>> 1) (shiftedOutRight (s.shiftSource x y)))

/-- `SHL Vx,Vy` (R151, R155). -/
def execShl (x y : Reg) (s : State) : Result :=
  .next (s.setResultFlag x (s.shiftSource x y <<< 1) (shiftedOutLeft (s.shiftSource x y)))

/-- `ADD I,Vx` (R165). -/
def execAddI (x : Reg) (s : State) : Result := .next (s.addIndex Config.addiVfClear (s.reg x))

end Sys2Proof.Machine
end

