-- ==== Sys2Proof/Machine/ControlFlow.lean ====
section
/-! DEFINITION. Control transfer and skips (40_control_flow.md R117 to R129). As in the spec's pseudocode, `pc` is already
the address of the instruction plus 2 when a meaning runs (R113) and `State.pc0` is the instruction's own address. -/

namespace Sys2Proof.Machine

/-- `SYS addr` (R117): raises `UnmodelledSys(pc0, addr)`. -/
def execSys (addr : Addr) (s : State) : Result := .next (s.raise (.unmodelledSys s.pc0 addr) s.pc0)

/-- `JP addr` (R118): a jump to its own address clears `RUNNING` (R119, decision D14); then `pc <- addr`. -/
def execJp (addr : Addr) (s : State) : Result :=
  .next ((s.setRunning (s.running && addrWord addr != s.pc0)).setPc (addrWord addr))

/-- `CALL addr` (R121): on a full finite stack raises `StackOverflow(pc0)` (R243), else pushes `pc` and jumps. -/
def execCall (addr : Addr) (s : State) : Result :=
  if s.stackFull then .next (s.raise (.stackOverflow s.pc0) s.pc0)
  else .next ((s.push s.pc).setPc (addrWord addr))

/-- `RET` (R122): pops `pc`; with an empty stack `pc <- 0` and no fault (R123). -/
def execRet (s : State) : Result :=
  match s.stack.getLast? with
  | none => .next (s.setPc 0)
  | some a => .next ((s.setStack s.stack.dropLast).setPc a)

/-- `JP Vx,addr` (R125): `pc <- u16(addr + V[r])`, with `r` chosen by `jumping`; never a self-jump (R119). -/
def execJpV (x : Reg) (addr : Addr) (s : State) : Result :=
  .next (s.setPc (BitVec.ofNat 16 (addr.toNat + (s.jumpReg x).toNat)))

/-- `SE Vx,kk` (R126). -/
def execSeImm (x : Reg) (kk : Byte) (s : State) : Result := .next (s.skipIf (s.reg x == kk))

/-- `SNE Vx,kk` (R127). -/
def execSneImm (x : Reg) (kk : Byte) (s : State) : Result := .next (s.skipIf (s.reg x != kk))

/-- `SE Vx,Vy` (R128). -/
def execSeReg (x y : Reg) (s : State) : Result := .next (s.skipIf (s.reg x == s.reg y))

/-- `SNE Vx,Vy` (R129). -/
def execSneReg (x y : Reg) (s : State) : Result := .next (s.skipIf (s.reg x != s.reg y))

end Sys2Proof.Machine
end

