-- ==== Sys2Proof/Machine/Video.lean ====
section
/-! DEFINITION. The video buffer as data: reading a pixel, building a buffer pixel by pixel, scrolling, and the plot and draw
loops of 44_display.md section 4. -/

namespace Sys2Proof.Machine

/-- `VRAM(x, y)`, that is `VRAM[y*W + x]` (10_state.md R31). -/
def pixelAt (vram : List Bool) (w x y : Nat) : Bool := vram.getD (y * w + x) false

/-- The buffer of `w*h` pixels, row-major, whose pixel `(x, y)` is `f x y` (44_display.md R210). -/
def buildVram (w h : Nat) (f : Nat → Nat → Bool) : List Bool :=
  (List.range h).flatMap fun y => (List.range w).map fun x => f x y

/-- All pixels false. -/
def blankVram (w h : Nat) : List Bool := List.replicate (w * h) false

/-- Scroll down `n` rows (R220, 90_conflicts.md C2). -/
def scrollDown (old : List Bool) (w h n : Nat) : List Bool :=
  buildVram w h fun x y => if n ≤ y then pixelAt old w x (y - n) else false

/-- Scroll right 4 pixels, each row by itself (R222). -/
def scrollRight (old : List Bool) (w h : Nat) : List Bool :=
  buildVram w h fun x y => if 4 ≤ x then pixelAt old w (x - 4) y else false

/-- Scroll left 4 pixels, each row by itself (R224). -/
def scrollLeft (old : List Bool) (w h : Nat) : List Bool :=
  buildVram w h fun x y => if x + 4 < w then pixelAt old w (x + 4) y else false

/-- What a draw works on: the buffer's size, whether sprites wrap, the buffer and `VF` so far. -/
structure Canvas where
  w : Nat
  h : Nat
  wrap : Bool
  vram : List Bool
  vf : Byte
deriving DecidableEq, Repr

/-- XOR the pixel at `(px, py)` inside the buffer; a pixel that goes from set to unset makes `VF` 1 (R225). -/
def Canvas.flip (c : Canvas) (px py : Nat) : Canvas :=
  { c with
    vram := c.vram.set (py * c.w + px) (!pixelAt c.vram c.w px py)
    vf := if pixelAt c.vram c.w px py then 1 else c.vf }

/-- `plot(px, py)` (R225): wrapped under `sprite_wrapping`, else skipped beyond an edge. -/
def Canvas.plot (c : Canvas) (px py : Nat) : Canvas :=
  if c.wrap then c.flip (px % c.w) (py % c.h)
  else if c.w ≤ px ∨ c.h ≤ py then c
  else c.flip px py

/-- The columns `k .. k+n-1` of one sprite row of `width` bits, most significant bit leftmost (R225, decision D22). -/
def Canvas.drawColumns (c : Canvas) (bits width x0 y : Nat) : Nat → Nat → Canvas
  | 0, _ => c
  | n + 1, k =>
    (if bits.testBit (width - 1 - k) then c.plot (x0 + k) y else c).drawColumns bits width x0 y n (k + 1)

/-- The rows `r .. r+n-1` of an 8-pixel-wide sprite whose row `r` is the byte `row r` (R226). -/
def Canvas.drawRows8 (c : Canvas) (row : Nat → Byte) (x0 y0 : Nat) : Nat → Nat → Canvas
  | 0, _ => c
  | n + 1, r => (c.drawColumns (row r).toNat 8 x0 (y0 + r) 8 0).drawRows8 row x0 y0 n (r + 1)

/-- One row of a 16x16 sprite: counted in `VF` and not drawn when it is off the bottom edge and does not wrap, else drawn
(R230, decision D21). -/
def Canvas.drawRow16 (c : Canvas) (bits x0 y : Nat) : Canvas :=
  if !c.wrap && decide (c.h ≤ y) then { c with vf := c.vf + 1 } else c.drawColumns bits 16 x0 y 16 0

/-- The rows `r .. r+n-1` of a 16x16 sprite whose row `r` is the 16-bit number `row r` (R230). -/
def Canvas.drawRows16 (c : Canvas) (row : Nat → Nat) (x0 y0 : Nat) : Nat → Nat → Canvas
  | 0, _ => c
  | n + 1, r => (c.drawRow16 (row r) x0 (y0 + r)).drawRows16 row x0 y0 n (r + 1)

/-- The canvas a draw starts from: `VF <- 0` (R226, R230). -/
def State.canvas (s : State) : Canvas :=
  { w := s.width, h := s.height, wrap := s.quirks.spriteWrapping, vram := s.vram, vf := 0 }

/-- The sprite's column on screen: `V[x] mod W`, reduced, never clipped (R226). -/
def State.originX (s : State) (x : Reg) : Nat := (s.reg x).toNat % s.width

/-- The sprite's row on screen: `V[y] mod H` (R226). -/
def State.originY (s : State) (y : Reg) : Nat := (s.reg y).toNat % s.height

/-- Row `r` of an 8-pixel-wide sprite: the byte at `I + r` (R226). -/
def State.spriteRow8 (s : State) (r : Nat) : Byte := s.readByte (s.indexAddr r)

/-- Row `r` of a 16x16 sprite: the bytes at `I + 2r` (left half) and `I + 2r + 1` (R230). -/
def State.spriteRow16 (s : State) (r : Nat) : Nat :=
  (s.readByte (s.indexAddr (2 * r))).toNat * 256 + (s.readByte (s.indexAddr (2 * r + 1))).toNat

/-- The draw's result in the state: the buffer and `VF`. -/
def State.withCanvas (s : State) (c : Canvas) : State := (s.setVram c.vram).setV VF c.vf

end Sys2Proof.Machine
end

