-- ==== Sys2Proof/Machine/Display.lean ====
section
/-! DEFINITION. The display instructions (44_display.md R212 to R230). -/

namespace Sys2Proof.Machine

/-- `CLS` (R212), and the word 0230 (R214). -/
def execCls (s : State) : Result := .next (s.setVram (blankVram s.width s.height))

/-- `LORES` (R216): 64x32 and clear, whatever the mode was (decision D20). -/
def execLores (s : State) : Result := .next ((s.setHires false).setVram (blankVram 64 32))

/-- `HIRES` (R218): 128x64 and clear. -/
def execHires (s : State) : Result := .next ((s.setHires true).setVram (blankVram 128 64))

/-- `SCD n` (R220). -/
def execScd (n : Count) (s : State) : Result := .next (s.setVram (scrollDown s.vram s.width s.height n.val))

/-- `SCR` (R222). -/
def execScr (s : State) : Result := .next (s.setVram (scrollRight s.vram s.width s.height))

/-- `SCL` (R224). -/
def execScl (s : State) : Result := .next (s.setVram (scrollLeft s.vram s.width s.height))

/-- `DRW Vx,Vy,n` (R226): the origin is read before `VF` is cleared. -/
def execDrw (x y : Reg) (n : Count) (s : State) : Result :=
  .next (s.withCanvas (s.canvas.drawRows8 s.spriteRow8 (s.originX x) (s.originY y) n.val 0))

/-- `DRW Vx,Vy,0` (R230): 16 rows of two bytes. -/
def execDrw16 (x y : Reg) (s : State) : Result :=
  .next (s.withCanvas (s.canvas.drawRows16 s.spriteRow16 (s.originX x) (s.originY y) 16 0))

end Sys2Proof.Machine
end

