-- ==== Sys2Proof/Machine/MemoryIndex.lean ====
section
/-! DEFINITION. Index loads, memory block transfers and the flag-save scratch (42_memory_index.md R171 to R186). -/

namespace Sys2Proof.Machine

/-- `LD I,addr` (R171). -/
def execLdI (addr : Addr) (s : State) : Result := .next (s.setI (addrWord addr))

/-- `LD F,Vx` (R172). -/
def execLdF (x : Reg) (s : State) : Result := .next (s.setI (smallGlyph (s.reg x)))

/-- `LD HF,Vx` (R174). -/
def execLdHF (x : Reg) (s : State) : Result := .next (s.setI (bigGlyph (s.reg x)))

/-- `LD B,Vx` (R176): the decimal digits at `I`, `I+1`, `I+2`. -/
def execLdB (x : Reg) (s : State) : Result := .next (s.writeRun (s.indexAddr 0) (decimalDigits (s.reg x)))

/-- `LD [I],Vx` (R178): `V0 .. Vx` to memory from `I` on, then the `memory` quirk's advance of `I`. -/
def execLdStore (x : Reg) (s : State) : Result :=
  .next ((s.writeRun (s.indexAddr 0) (s.regsUpTo x)).postAdvanceIndex x)

/-- `LD Vx,[I]` (R180): `V0 .. Vx` from memory at `I`, then the `memory` quirk's advance of `I`. -/
def execLdLoad (x : Reg) (s : State) : Result :=
  .next ((s.setRegs (copyRun (fun k => s.readByte (s.indexAddr k)) (x.val + 1) s.v)).postAdvanceIndex x)

/-- `SAVE Vx` (R184): `V0 .. V[min(x,7)]` to the scratch. -/
def execSave (x : Reg) (s : State) : Result :=
  .next (s.setFlags (copyRun (fun k => s.v.getD k 0) (scratchCount x) s.flags))

/-- `LOAD Vx` (R186): `V0 .. V[min(x,7)]` from the scratch. -/
def execLoad (x : Reg) (s : State) : Result :=
  .next (s.setRegs (copyRun (fun k => s.flags.getD k 0) (scratchCount x) s.v))

end Sys2Proof.Machine
end

