-- ==== Sys2Proof/Machine/TimersInput.lean ====
section
/-! DEFINITION. Timer access, key input and random numbers (43_timers_input_random.md R190 to R206). -/

namespace Sys2Proof.Machine

/-- `LD Vx,DT` (R190). -/
def execLdVxDt (x : Reg) (s : State) : Result := .next (s.setV x s.dt)

/-- `LD DT,Vx` (R192). -/
def execLdDtVx (x : Reg) (s : State) : Result := .next (s.setDt (s.reg x))

/-- `LD ST,Vx` (R194). -/
def execLdStVx (x : Reg) (s : State) : Result := .next (s.setSt (s.reg x))

/-- `SKP Vx` (R196, R198). -/
def execSkp (x : Reg) (s : State) : Result := .next (s.skipIf (s.keyHeld (s.keyOperand x)))

/-- `SKNP Vx` (R196, R200). -/
def execSknp (x : Reg) (s : State) : Result := .next (s.skipIf (!s.keyHeld (s.keyOperand x)))

/-- `LD Vx,K` (R202): with no key held `pc` goes back to the instruction, which the next step runs again (R204); else the
least key held is stored. -/
def execLdVxK (x : Reg) (s : State) : Result :=
  match s.leastKey with
  | none => .next (s.setPc s.pc0)
  | some k => .next (s.setV x (BitVec.ofNat 8 k))

/-- `RND Vx,kk` (R206): a free draw in `0 .. kk`; the next `RND` takes the next draw. -/
def execRnd (x : Reg) (kk : Byte) (s : State) : Result :=
  .next ((s.setV x (s.randomDraw kk)).setRndCount (s.rndCount + 1))

end Sys2Proof.Machine
end

