-- ==== Sys2Proof/Machine/Scheduler.lean ====
section
/-! DEFINITION. The MACHINE part of the CORE (60_exceptions.md): the cost of a step, the timer update, what happens after a
step, and the host's transactions. -/

namespace Sys2Proof.Machine

/-- Cycles of an ordinary step (40_control_flow.md R115). -/
def stepCycles : Nat := 8

/-- The instruction is one of the two draws. -/
def isDraw : Instr → Bool
  | .drw _ _ _ | .drw16 _ _ => true
  | .cls | .ret | .scd _ | .scr | .scl | .lores | .hires | .sys _ | .jp _ | .call _ | .seImm _ _ | .sneImm _ _
  | .seReg _ _ | .ldImm _ _ | .addImm _ _ | .ldReg _ _ | .orReg _ _ | .andReg _ _ | .xorReg _ _ | .addReg _ _
  | .sub _ _ | .shr _ _ | .subn _ _ | .shl _ _ | .sneReg _ _ | .ldI _ | .jpV _ _ | .rnd _ _ | .skp _ | .sknp _
  | .ldVxDt _ | .ldVxK _ | .ldDtVx _ | .ldStVx _ | .addI _ | .ldF _ | .ldHF _ | .ldB _ | .ldStore _ | .ldLoad _
  | .save _ | .load _ => false

/-- The cost of a step (R115): 8, or the whole budget for a draw under `display_wait`. -/
def State.cost (s : State) (i : Instr) : Nat := if isDraw i && s.quirks.displayWait then s.budget else stepCycles

/-- A timer one tick later: decremented by 1, floored at 0 (60_exceptions.md R262). -/
def timerDown (b : Byte) : Byte := if b = 0 then 0 else b - 1

/-- `tick_timers` (R262). -/
def State.tickTimers (s : State) : State := (s.setDt (timerDown s.dt)).setSt (timerDown s.st)

/-- `tick` runs steps: RUNNING, not HALTED, no FAULT (R257). -/
def State.ready (s : State) : Bool := s.running && !s.halted && s.fault.isNone

/-- What the tick does after a step, with `a` the cycles used so far including that step (R258): a fault ends the tick with
no timer update (R241); else a breakpoint at the new `pc` halts it with no timer update (R259); else RUNNING cleared or the
budget reached ends it with the timer update (R260, R262); else the tick goes on. -/
def State.afterStep (s : State) (a : Nat) : State :=
  if s.fault.isSome then s.setAcc none
  else if s.breakpoints.contains s.pc then (s.setHalted true).setAcc none
  else if !s.running || decide (s.budget ≤ a) then s.tickTimers.setAcc none
  else s.setAcc (some a)

/-! ### The host's transactions (R270 to R279) -/

/-- `load_program(bytes)` (R272). -/
def hostLoadProgram (bytes : List Byte) (s : State) : Result :=
  if bytes.length ≤ programMax then .next (s.writeRun programBase bytes) else .refused (.programTooLong bytes.length)

/-- `keydown(k)` and `keyup(k)` (R273, R274): key `k` becomes `held`. -/
def hostKey (k : Nat) (held : Bool) (s : State) : Result :=
  if h : k < 16 then .next (s.setKey ⟨k, h⟩ held) else .refused (.keyOutOfRange k)

/-- `set_breakpoint(addr)` (R275). -/
def hostSetBreakpoint (addr : Word) (s : State) : Result := .next (s.setBreakpoints (breakpointsInsert s.breakpoints addr))

/-- `remove_breakpoint(addr)` (R276): `HALTED` stays as it is. -/
def hostRemoveBreakpoint (addr : Word) (s : State) : Result :=
  .next (s.setBreakpoints (breakpointsErase s.breakpoints addr))

/-- `resume()` (R277). -/
def hostResume (s : State) : Result := .next (s.setHalted false)

/-- What the host observes (R278). -/
structure Observation where
  width : Nat
  height : Nat
  vram : List Bool
  running : Bool
  halted : Bool
deriving DecidableEq, Repr

/-- Observing changes nothing and sees nothing else (R278). -/
def State.observe (s : State) : Observation :=
  { width := s.width, height := s.height, vram := s.vram, running := s.running, halted := s.halted }

end Sys2Proof.Machine
end

