-- ==== Sys2Proof/Machine/Cycle.lean ====
section
/-! DEFINITION. One step of the CPU (40_control_flow.md R110), one cycle of the scheduler around it (60_exceptions.md R258),
and the whole `tick` as the spec writes it. -/

namespace Sys2Proof.Machine

/-- One step of the CPU (R110): fetch, decode before `pc` is advanced (R112), advance (R113), execute (R114). -/
def cpuStep (s : State) : Result :=
  match parse s.fetch with
  | .error _ => .next (s.raise (.decodeFault s.pc s.fetch) s.pc)
  | .ok i => exec i s.advancePc

/-- The cost of the step at `s` (R115); a faulting decode has none. -/
def stepCost (s : State) : Nat :=
  match parse s.fetch with
  | .error _ => 0
  | .ok i => s.cost i

/-- One pass of the tick's loop from `a` cycles used (R258). -/
def runCycle (a : Nat) (s : State) : Result :=
  match cpuStep s with
  | .next t => .next (t.afterStep (a + stepCost s))
  | .fault r => .fault r
  | .refused r => .refused r

/-- `tick()` from its start to its first step (R257, R258): a no-op on a machine that is not ready; with a budget of 0 only
the timer update; else the first pass of the loop. -/
def beginTick (s : State) : Result :=
  if !s.ready then .next s
  else if s.budget = 0 then .next s.tickTimers
  else runCycle 0 s

/-- The running tick's next pass. A machine that is not ready has no running tick (assumption 29). -/
def continueTick (a : Nat) (s : State) : Result := if s.ready then runCycle a s else .next (s.setAcc none)

/-- The transaction `c` on a machine between ticks (R270, R279). -/
def transact (c : Transaction) (s : State) : Result :=
  match c with
  | .tick => beginTick s
  | .loadProgram bytes => hostLoadProgram bytes s
  | .keydown k => hostKey k true s
  | .keyup k => hostKey k false s
  | .setBreakpoint addr => hostSetBreakpoint addr s
  | .removeBreakpoint addr => hostRemoveBreakpoint addr s
  | .resume => hostResume s

/-- One step of the machine: inside a tick the tick's next pass; between ticks the host's next transaction, which is `tick`
when none is listed (R279; assumptions 2 and 3). -/
def schedule (s : State) : Result :=
  match s.acc with
  | some a => continueTick a s
  | none =>
    match s.hostCalls with
    | [] => beginTick s
    | c :: rest => transact c (s.setHostCalls rest)

/-- The loop of `tick` (R258) as the spec writes it, `fuel` bounding its passes: `while ACC < B`. -/
def tickLoop : Nat → Nat → State → Result
  | 0, _, s => .next s
  | fuel + 1, a, s =>
    if s.budget ≤ a then .next s.tickTimers
    else
      match cpuStep s with
      | .fault r => .fault r
      | .refused r => .refused r
      | .next t =>
        if t.fault.isSome then .next t
        else if t.breakpoints.contains t.pc then .next (t.setHalted true)
        else if !t.running then .next t.tickTimers
        else tickLoop fuel (a + stepCost s) t

/-- `tick()` (R257, R258) in one transaction. Every pass costs at least one cycle, so `B + 1` passes are enough. -/
def tick (s : State) : Result := if s.ready then tickLoop (s.budget + 1) 0 s else .next s

/-- `s` with the word `w` stored where the next step fetches, and all that makes that next step run it: no pending
transaction, a machine that is ready, and a budget of at least one cycle (assumption 26). -/
def State.placeWord (s : State) (w : Word) : State :=
  ((((((s.writeRun s.pc.toNat (bytesOfWord w)).setRunning true).setHalted false).setFault none).setAcc none).setHostCalls
    []).setClockSpeed (if s.budget = 0 then 6000 else s.clockSpeed)

end Sys2Proof.Machine
end

