-- ==== Sys2Proof/Machine/Step.lean ====
section
/-! DEFINITION. The machine's one step function, and where the host places an instruction for it. -/

namespace Sys2Proof.Machine

/-- One step of the machine (assumption 2). -/
def step (s : State) : Host.Outcome State Fault Refusal := schedule s

/-- `s` with the table row's instruction stored where `step` fetches next, so that `step` runs exactly it (assumption 26). -/
def State.withFetchWord (s : State) (nbits w : Nat) : State := s.placeWord (tableWord nbits w)

end Sys2Proof.Machine
end

