-- ==== Sys2Proof/Safety.lean ====
section
/-! DEFINITION. The end of a run (60_exceptions.md R280), the sound states (the invariant claims use) and what a safe run is. -/

namespace Sys2Proof.Machine

/-- The four kinds of machine state (R280). -/
inductive RunStatus where
  /-- Ended by a self-jump; cannot be resumed. -/
  | terminated
  /-- The run failed. -/
  | faulted
  /-- Halted at a breakpoint; only the host's `resume` continues it. -/
  | paused
  /-- The next tick runs steps. -/
  | live
deriving DecidableEq, Repr

/-- The kind of a state (R280). It says no more than R281 allows. -/
def State.status (s : State) : RunStatus :=
  if s.fault.isSome then .faulted
  else if !s.running then .terminated
  else if s.halted then .paused
  else .live

/-- `I <= 0x0FFF` (10_state.md R23). -/
def State.indexSound (s : State) : Bool := decide (s.i.toNat ≤ 0x0FFF)

/-- `vram.len() == width*height` (10_state.md R31). -/
def State.vramSound (s : State) : Bool := decide (s.vram.length = s.width * s.height)

/-- The stack respects a finite STACK_DEPTH (10_state.md R25). -/
def State.stackSound (s : State) : Bool :=
  match s.stackDepth with
  | none => true
  | some d => decide (s.stack.length ≤ d)

/-- A tick is running only on a ready machine and under budget (60_exceptions.md R258). -/
def State.tickSound (s : State) : Bool :=
  match s.acc with
  | none => true
  | some a => s.ready && decide (a < s.budget)

/-- The invariant of the machine: memory and breakpoints canonical, `I` 12 bits, the buffer the mode's size, the stack
within its depth, and a running tick only where the scheduler can have one. -/
def State.sound (s : State) : Bool :=
  Memory.wf s.mem && breakpointsWf s.breakpoints && s.indexSound && s.vramSound && s.stackSound && s.tickSound

/-- A safe state: sound, and no fault recorded. -/
def State.safe (s : State) : Bool := s.sound && s.fault.isNone

end Sys2Proof.Machine
end

