-- ==== Sys2Proof/Certificates/Slice0/Obligations.lean ====
section
/-! DEFINITION. The statements for the provers. A statement that rests on one of the spec's own decisions (D1 to D45 of
92_eei_decisions.md, or a passage the spec marks as general knowledge or derived) says so in its docstring and has basis
'derived' in OBLIGATIONS.json. `exec` runs on the state whose `pc` is already the instruction's address plus 2
(40_control_flow.md R113), so `s.pc - 2` is the instruction's own address in a statement about `exec`. -/

open Sys2Proof Sys2Proof.Machine

/-! ### What the statements are written with -/

namespace Sys2Proof.Claims

/-- The next step of `s` is the pass of a tick that has used `a` cycles: a running tick, or the start of one. -/
def atPass (s : State) (a : Nat) : Prop :=
  s.ready = true ∧ (s.acc = some a ∨ (s.acc = none ∧ s.hostCalls = [] ∧ a = 0 ∧ 0 < s.budget))

/-- The bytes at `pc` decode to `i`. -/
def fetches (s : State) (i : Instr) : Prop :=
  decodeBytes [s.readByte s.pc.toNat, s.readByte (s.pc.toNat + 1)] = .ok (i, [])

/-- The bytes at `pc` decode to no instruction. -/
def fetchesNothing (s : State) : Prop :=
  ∃ e, decodeBytes [s.readByte s.pc.toNat, s.readByte (s.pc.toNat + 1)] = .error e

/-- Only the general registers differ. -/
def onlyRegs (s t : State) : Prop := t = { s with v := t.v }

/-- The word `w` is illegal by the table of 30_encoding.md R96, read by nibbles. -/
def illegalWord (w : Word) : Prop :=
  (w.toNat / 4096 = 0x5 ∧ w.toNat % 16 ≠ 0) ∨
  (w.toNat / 4096 = 0x8 ∧ (8 ≤ w.toNat % 16 ∧ w.toNat % 16 ≤ 0xD ∨ w.toNat % 16 = 0xF)) ∨
  (w.toNat / 4096 = 0x9 ∧ w.toNat % 16 ≠ 0) ∨
  (w.toNat / 4096 = 0xE ∧ w.toNat % 256 ∉ [0x9E, 0xA1]) ∨
  (w.toNat / 4096 = 0xF ∧
    w.toNat % 256 ∉ [0x07, 0x0A, 0x15, 0x18, 0x1E, 0x29, 0x30, 0x33, 0x55, 0x65, 0x75, 0x85])

/-- Where the sprite position `(cx, cy)` lands on screen is `(px, py)`: reduced to the screen under `sprite_wrapping`, itself
without it (44_display.md R225). -/
def landsOn (s : State) (cx cy px py : Nat) : Prop :=
  if s.quirks.spriteWrapping then cx % s.width = px ∧ cy % s.height = py else cx = px ∧ cy = py

/-- A set bit of the 8-pixel-wide, `n`-row sprite at `I`, drawn at `V[x], V[y]`, lands on `(px, py)` (R226). -/
def covers8 (s : State) (x y : Reg) (n px py : Nat) : Prop :=
  ∃ r c, r < n ∧ c < 8 ∧ (s.readByte (s.i.toNat + r)).toNat.testBit (7 - c) = true ∧
    landsOn s ((s.reg x).toNat % s.width + c) ((s.reg y).toNat % s.height + r) px py

/-- A set bit of the 16x16 sprite at `I`, drawn at `V[x], V[y]`, lands on `(px, py)` (R230): two bytes a row, the left half at
the lower address. -/
def covers16 (s : State) (x y : Reg) (px py : Nat) : Prop :=
  ∃ r c, r < 16 ∧ c < 16 ∧
    ((s.readByte (s.i.toNat + 2 * r)).toNat * 256 + (s.readByte (s.i.toNat + 2 * r + 1)).toNat).testBit (15 - c) = true ∧
    landsOn s ((s.reg x).toNat % s.width + c) ((s.reg y).toNat % s.height + r) px py

/-- Rows of a 16x16 sprite that run off the bottom edge: none under `sprite_wrapping`, else the rows `r < 16` with
`y0 + r >= H` (R230). -/
def rowsOff (s : State) (y : Reg) : Nat :=
  if s.quirks.spriteWrapping then 0 else (s.reg y).toNat % s.height + 16 - s.height

/-- The registers an instruction may write (10_state.md R20, R21). -/
def writesReg (i : Instr) (r : Reg) : Bool :=
  match i with
  | .ldImm x _ | .addImm x _ | .ldReg x _ | .rnd x _ | .ldVxDt x | .ldVxK x => r == x
  | .orReg x _ | .andReg x _ | .xorReg x _ | .addReg x _ | .sub x _ | .subn x _ | .shr x _ | .shl x _ => r == x || r == VF
  | .addI _ | .drw _ _ _ | .drw16 _ _ => r == VF
  | .ldLoad x => decide (r.val ≤ x.val)
  | .load x => decide (r.val ≤ min x.val 7)
  | .cls | .ret | .scd _ | .scr | .scl | .lores | .hires | .sys _ | .jp _ | .call _ | .seImm _ _ | .sneImm _ _ | .seReg _ _
  | .sneReg _ _ | .ldI _ | .jpV _ _ | .skp _ | .sknp _ | .ldDtVx _ | .ldStVx _ | .ldF _ | .ldHF _ | .ldB _ | .ldStore _
  | .save _ => false

/-- The step of the machine answers `t`. -/
def stepsTo (s t : State) : Prop := step s = .next t

/-- The machine after `k` steps. -/
def reaches (k : Nat) (s t : State) : Prop := Host.Core.run Sys2Proof.core k s = .next t

end Sys2Proof.Claims

open Sys2Proof.Claims

/-! ### Encoding -/

/-- 30_encoding.md R98, the source's own property ("`parse(encode(instr)) == instr`"), over memory's bytes: the bytes of a
well-formed instruction decode to it, with every operand at every value, and what follows is left. The bit patterns are the
spec's decision D2. -/
def Obligations.DecodeEncodeRoundTrip : Prop :=
  ∀ (i : Instr) (rest : List Byte), i.wellFormed = true → decodeBytes (encodeBytes i ++ rest) = .ok (i, rest)

/-- 30_encoding.md R98, the converse: a legal word other than 0x0230 is the encoding of what it parses to, and whatever a word
parses to is well-formed. Rests on D2 and D6. -/
def Obligations.EncodeParseRoundTrip : Prop :=
  ∀ (w : Word) (i : Instr), parse w = .ok i → i.wellFormed = true ∧ (w ≠ 0x0230 → encode i = w)

/-- 30_encoding.md R96: the words the decoder rejects are exactly the table's, each rejected with its own word. Rests on D6
and D7. -/
def Obligations.IllegalWordsAreExactlyTheTable : Prop :=
  ∀ w : Word, (illegalWord w → parse w = .error (.noRow w)) ∧ (¬ illegalWord w → ∃ i, parse w = .ok i)

/-- Words written out bit by bit from the opcode map R91, one of each family. The bit patterns are the spec's decision D2. -/
def Obligations.SampleWordsDecode : Prop :=
  parse 0b0010001100000000 = .ok (.call 0x300) ∧ parse 0b1000000100100100 = .ok (.addReg 1 2) ∧
  parse 0b1111000101010101 = .ok (.ldStore 1) ∧ parse 0b1111001100001010 = .ok (.ldVxK 3) ∧
  parse 0b1101000000010101 = .ok (.drw 0 1 5) ∧ parse 0b1101000000010000 = .ok (.drw16 0 1) ∧
  parse 0b0000000011000111 = .ok (.scd 7) ∧ parse 0b1011001001000100 = .ok (.jpV 2 0x244)

/-! ### The step and the tick -/

/-- 40_control_flow.md R110, R113 and 60_exceptions.md R258 to R260: a pass of the tick runs the decoded instruction on the
state whose `pc` is advanced by 2; then a fault ends the tick; else a breakpoint at the new `pc` halts it with no timer
update; else `RUNNING` cleared or the budget reached ends it with the timer update; else it goes on with the cost added (8, or
the budget for a draw under `display_wait`, R115). That a model step is one pass is assumption 2; rests on D24 to D26. -/
def Obligations.StepRunsDecodedInstruction : Prop :=
  ∀ (s t : State) (a c : Nat) (i : Instr), atPass s a → fetches s i → exec i { s with pc := s.pc + 2 } = .next t →
    c = a + (if isDraw i = true ∧ s.quirks.displayWait = true then s.clockSpeed / 6000 else 8) →
    (t.fault ≠ none → step s = .next { t with acc := none }) ∧
    (t.fault = none → t.pc ∈ t.breakpoints → step s = .next { t with halted := true, acc := none }) ∧
    (t.fault = none → t.pc ∉ t.breakpoints → (t.running = false ∨ t.clockSpeed / 6000 ≤ c) →
      step s = .next { t with
        dt := BitVec.ofNat 8 (t.dt.toNat - 1), st := BitVec.ofNat 8 (t.st.toNat - 1), acc := none }) ∧
    (t.fault = none → t.pc ∉ t.breakpoints → t.running = true → c < t.clockSpeed / 6000 →
      step s = .next { t with acc := some c })

/-- The three faults are precise: a step whose word decodes to nothing, or that runs `SYS addr`, or `CALL` on a full finite stack,
writes `FAULT` with its information and nothing else, so `pc` stays, and the tick ends with no timer update (40_control_flow.md R112,
60_exceptions.md R241 to R244). Rests on D4, D6, D8 and D28. -/
def Obligations.FaultingStepsWriteOnlyFault : Prop :=
  ∀ (s : State) (a : Nat) (addr : Addr), atPass s a →
    (fetchesNothing s →
      step s = .next { s with
        fault := some (.decodeFault s.pc
          (BitVec.ofNat 16 ((s.readByte s.pc.toNat).toNat * 256 + (s.readByte (s.pc.toNat + 1)).toNat)))
        acc := none }) ∧
    (fetches s (.sys addr) → step s = .next { s with fault := some (.unmodelledSys s.pc addr), acc := none }) ∧
    (∀ d, fetches s (.call addr) → s.stackDepth = some d → d ≤ s.stack.length →
      step s = .next { s with fault := some (.stackOverflow s.pc), acc := none })

/-- The ticks that run no step. `tick` is a no-op on a machine that is not running, is halted or has a fault (60_exceptions.md R257),
whether the host's call is listed or implied; and a tick of a ready machine whose budget is 0 only updates the timers (R258). The fault
clause rests on D8 and the budget on D24; one model step stands for such a tick (assumption 2). -/
def Obligations.TicksThatRunNoStep : Prop :=
  ∀ (s : State) (rest : List Transaction), s.acc = none →
    (s.running = false ∨ s.halted = true ∨ s.fault ≠ none →
      (s.hostCalls = [] → step s = .next s) ∧ (s.hostCalls = .tick :: rest → step s = .next { s with hostCalls := rest })) ∧
    (s.ready = true → s.hostCalls = [] → s.clockSpeed < 6000 →
      step s = .next { s with dt := BitVec.ofNat 8 (s.dt.toNat - 1), st := BitVec.ofNat 8 (s.st.toNat - 1) })

/-- The steps of the machine from the start of a tick, up to the first that leaves no tick running, are together the `tick()` of
60_exceptions.md R258 as the spec writes it, and there are at most `B` of them (one where no step runs). That a model step is
one pass of the loop is assumption 2; rests on D24 to D26. -/
def Obligations.StepsOfATickAreTheSpecsTick : Prop :=
  ∀ s : State, s.acc = none → s.hostCalls = [] →
    ∃ (n : Nat) (t : State), 0 < n ∧ n ≤ max 1 s.budget ∧ tick s = .next t ∧ t.acc = none ∧ reaches n s t ∧
      ∀ k u, 0 < k → k < n → reaches k s u → u.acc ≠ none

/-- 70_reset_and_hazards.md R297: a tick in which every pass runs an instruction that is no `DRW` under `display_wait`, does not
fault, does not reach a breakpoint and does not terminate runs exactly `ceil(B / 8)` steps. The spec marks the rule as derived
from R258. -/
def Obligations.OrdinaryTickRunsCeilingOfBudgetSteps : Prop :=
  ∀ s : State, s.acc = none → s.hostCalls = [] → s.ready = true → 0 < s.budget →
    (∀ k u, k < (s.budget + 7) / 8 → reaches k s u →
      ∃ i t, fetches u i ∧ ¬ (isDraw i = true ∧ u.quirks.displayWait = true) ∧ exec i { u with pc := u.pc + 2 } = .next t ∧
        t.fault = none ∧ t.running = true ∧ t.pc ∉ t.breakpoints) →
    (∃ t, reaches ((s.budget + 7) / 8) s t ∧ t.acc = none) ∧
    (∀ k u, 0 < k → k < (s.budget + 7) / 8 → reaches k s u → u.acc = some (8 * k))

/-- A listed `tick` is the tick the host calls with nothing listed: its first step, and every later pass of the running tick, do
the same whatever is listed, and the rest of the list is kept (60_exceptions.md R258, R270, R279). The list is the model's own
field `hostCalls` (assumption 3), and that a pass is a step is assumption 2. -/
def Obligations.ListedTickIsTheImpliedTick : Prop :=
  ∀ (s t : State) (cs : List Transaction), step { s with hostCalls := [] } = .next t →
    (s.acc = none → step { s with hostCalls := .tick :: cs } = .next { t with hostCalls := cs }) ∧
    (∀ a, s.acc = some a → step { s with hostCalls := cs } = .next { t with hostCalls := cs })

/-! ### Invariants and whole-machine rules -/

/-- Every step keeps the machine sound: memory and the breakpoint set canonical, `I <= 0x0FFF` (10_state.md R23),
`vram.len() == width*height` (R31), the stack within STACK_DEPTH (R25), and a running tick only on a ready machine under budget
(60_exceptions.md R258). The canonical forms are the model's (assumptions 13 and 27); R23 rests on D17. -/
def Obligations.EveryStepKeepsTheMachineSound : Prop :=
  ∀ s t : State, s.sound = true → stepsTo s t → t.sound = true

/-- The state after any construction is sound, and so is the reset state. -/
def Obligations.ConstructionIsSound : Prop :=
  State.reset.sound = true ∧ ∀ (q : Quirks) (c : Nat), (State.construct q c).sound = true

/-- No instruction ends in a fault outcome or a refusal: every instruction answers a next state on every state (60_exceptions.md
R245; recording `FAULT` is a next state, assumption 1). -/
def Obligations.EveryInstructionAnswersANextState : Prop :=
  ∀ (i : Instr) (s : State), ∃ t, exec i s = .next t

/-- A step never answers a fault outcome, and it refuses only a host transaction whose argument is out of range
(60_exceptions.md R272 to R274). Rests on D32, D33 and assumptions 1 and 4. -/
def Obligations.StepStopsOnlyOnBadTransactions : Prop :=
  ∀ s : State, (∃ t, step s = .next t) ∨
    (s.acc = none ∧ ∃ c rest, s.hostCalls = c :: rest ∧
      ((∃ k, (c = .keydown k ∨ c = .keyup k) ∧ 15 < k ∧ step s = .refused (.keyOutOfRange k)) ∨
       (∃ bytes, c = .loadProgram bytes ∧ 0xE00 < bytes.length ∧ step s = .refused (.programTooLong bytes.length))))

/-- Which instruction writes which piece of state (10_state.md R20 to R35, R39; 20_memory.md R69; 60_exceptions.md R240): everything
an instruction changes is named here. `pc` is compared with its advanced value, so its writers are the jumps, the skips, `LD Vx,K`
(going back) and the two that may fault; which register changes is `OnlyDestinationsAndFlagsAreWritten`. The keys, the breakpoints,
`HALTED` and the configuration are never written by an instruction, nor are `acc` (assumption 2), `hostCalls` (assumption 3) and
`stackDepth` (assumption 7); `rndCount` is the model's own (assumption 11). The FAULT clause rests on D4, D8 and D28. -/
def Obligations.EachPieceOfStateHasItsWriters : Prop :=
  ∀ (i : Instr) (s t : State), exec i s = .next t →
    (t.pc ≠ s.pc → (∃ a, i = .sys a ∨ i = .jp a ∨ i = .call a) ∨ i = .ret ∨ (∃ x a, i = .jpV x a) ∨
      (∃ x kk, i = .seImm x kk ∨ i = .sneImm x kk) ∨ (∃ x y, i = .seReg x y ∨ i = .sneReg x y) ∨
      ∃ x, i = .skp x ∨ i = .sknp x ∨ i = .ldVxK x) ∧
    (t.v ≠ s.v → ∃ r, writesReg i r = true) ∧
    (t.i ≠ s.i → (∃ a, i = .ldI a) ∨ (∃ x, i = .addI x ∨ i = .ldF x ∨ i = .ldHF x) ∨
      (s.quirks.memory = true ∧ ∃ x, i = .ldStore x ∨ i = .ldLoad x)) ∧
    (t.stack ≠ s.stack → (∃ a, i = .call a) ∨ i = .ret) ∧
    (t.dt ≠ s.dt → ∃ x, i = .ldDtVx x) ∧ (t.st ≠ s.st → ∃ x, i = .ldStVx x) ∧
    (t.flags ≠ s.flags → ∃ x, i = .save x) ∧ (t.running ≠ s.running → ∃ a, i = .jp a) ∧
    (t.hires ≠ s.hires → i = .lores ∨ i = .hires) ∧
    (t.vram ≠ s.vram → i = .cls ∨ i = .lores ∨ i = .hires ∨ i = .scr ∨ i = .scl ∨ (∃ n, i = .scd n) ∨
      (∃ x y n, i = .drw x y n) ∨ ∃ x y, i = .drw16 x y) ∧
    (t.mem ≠ s.mem → ∃ x, i = .ldB x ∨ i = .ldStore x) ∧
    (t.fault ≠ s.fault → (∃ a, i = .sys a) ∨ (∃ a, i = .call a)) ∧ (t.rndCount ≠ s.rndCount → ∃ x kk, i = .rnd x kk) ∧
    t.keys = s.keys ∧ t.breakpoints = s.breakpoints ∧ t.halted = s.halted ∧ t.quirks = s.quirks ∧
    t.clockSpeed = s.clockSpeed ∧ t.acc = s.acc ∧ t.stackDepth = s.stackDepth ∧ t.hostCalls = s.hostCalls

/-- A register changes only by an instruction that may write it: its destination, or `VF` where the instruction computes a flag
(10_state.md R20, R21). -/
def Obligations.OnlyDestinationsAndFlagsAreWritten : Prop :=
  ∀ (i : Instr) (s t : State) (r : Reg), exec i s = .next t → writesReg i r = false → t.reg r = s.reg r

/-- `QUIRKS` is "otherwise immutable during execution", and so are the other construction parameters: no instruction and no host
transaction changes them (10_state.md R35, R38). -/
def Obligations.ConfigurationNeverChanges : Prop :=
  ∀ s t : State, stepsTo s t → t.quirks = s.quirks ∧ t.clockSpeed = s.clockSpeed ∧ t.stackDepth = s.stackDepth

/-- `RUNNING` is cleared only by a `JP addr` to its own address and never comes back (10_state.md R29, 40_control_flow.md R119).
The reading of a self-jump is D14. -/
def Obligations.TerminationIsASelfJumpAndFinal : Prop :=
  (∀ s t : State, s.running = false → stepsTo s t → t.running = false) ∧
  (∀ (i : Instr) (s t : State), exec i s = .next t → s.running = true → t.running = false →
    ∃ addr : Addr, i = .jp addr ∧ addr.toNat = (s.pc - 2).toNat)

/-- A fault is final: no transaction clears it, and with only ticks to come the machine never changes again (60_exceptions.md
R241, R257). Rests on D8. -/
def Obligations.FaultIsFinal : Prop :=
  (∀ (s t : State) (f : Fault), s.fault = some f → stepsTo s t → t.fault = some f) ∧
  (∀ (s : State) (f : Fault), s.fault = some f → s.acc = none → s.hostCalls = [] → ∀ n, reaches n s s)

/-- `KEYS` changes only by `keydown` and `keyup`, `BREAKPOINTS` only by `set_breakpoint` and `remove_breakpoint`, and `HALTED`
is cleared only by `resume`, all between ticks (10_state.md R32 to R34, 60_exceptions.md R279). Rests on D33, D34. -/
def Obligations.HostStateChangesOnlyBetweenTicks : Prop :=
  ∀ s t : State, stepsTo s t →
    (t.keys ≠ s.keys → s.acc = none ∧ ∃ k rest, s.hostCalls = .keydown k :: rest ∨ s.hostCalls = .keyup k :: rest) ∧
    (t.breakpoints ≠ s.breakpoints →
      s.acc = none ∧ ∃ a rest, s.hostCalls = .setBreakpoint a :: rest ∨ s.hostCalls = .removeBreakpoint a :: rest) ∧
    (s.halted = true → t.halted = false → s.acc = none ∧ ∃ rest, s.hostCalls = .resume :: rest)

/-- A program cannot observe the debugger or the scheduler: an instruction does the same whatever the breakpoints, `HALTED`, the
cycles used and the host's coming transactions are (60_exceptions.md R264). Rests on D34. -/
def Obligations.InstructionsCannotObserveTheScheduler : Prop :=
  ∀ (i : Instr) (s t : State) (bs : List Word) (h : Bool) (a : Option Nat) (cs : List Transaction), exec i s = .next t →
    exec i { s with breakpoints := bs, halted := h, acc := a, hostCalls := cs } =
      .next { t with breakpoints := bs, halted := h, acc := a, hostCalls := cs }

/-- `hires_draw_flag` has no effect on any step (10_state.md R37). Rests on D31. -/
def Obligations.HiresDrawFlagHasNoEffect : Prop :=
  ∀ (s t : State) (b : Bool), stepsTo s t →
    stepsTo { s with quirks := { s.quirks with hiresDrawFlag := b } } { t with quirks := { t.quirks with hiresDrawFlag := b } }

/-! ### Reset, boot and the host's transactions -/

/-- 70_reset_and_hazards.md R290, R291 (10_state.md R42): every field after construction. `pc = 0x200` and the arguments are the
source's; every other value is the spec's decision D8, D9 or D28, and `rndCount`, `hostCalls` are the model's (assumptions 3
and 11). Memory lists nothing (assumption 13), so every byte reads as the reset contents, which `ConstructionMemoryHoldsTheFonts`
gives. -/
def Obligations.ConstructionGivesTheResetValues : Prop :=
  ∀ (q : Quirks) (c : Nat),
    let s := State.construct q c
    s.pc = 0x200 ∧ (∀ r, s.reg r = 0) ∧ s.i = 0 ∧ s.stack = [] ∧ s.dt = 0 ∧ s.st = 0 ∧ (∀ k : Fin 8, s.flags[k] = 0) ∧
    s.running = true ∧ s.hires = false ∧ s.vram.length = 64 * 32 ∧ (∀ x y, x < 64 → y < 32 → pixelAt s.vram 64 x y = false) ∧
    (∀ k : Key, s.keys[k] = false) ∧ s.breakpoints = [] ∧ s.halted = false ∧ s.fault = none ∧ s.acc = none ∧
    s.quirks = q ∧ s.clockSpeed = c ∧ s.stackDepth = none ∧ s.rndCount = 0 ∧ s.hostCalls = [] ∧
    s.mem = [] ∧ ∀ a, s.readByte a = unlistedByte (a % 4096)

/-- 20_memory.md R66: after construction the two fonts and 0 everywhere else. The small font's bytes are D10, the large font's are
free (assumption 9), the zeros D9. -/
def Obligations.ConstructionMemoryHoldsTheFonts : Prop :=
  ∀ (q : Quirks) (c a : Nat), a < 4096 →
    (a < 0x050 → (State.construct q c).readByte a = smallFont.getD a 0) ∧
    (0x050 ≤ a → a < 0x0F0 → (State.construct q c).readByte a = Config.bigFont (a - 0x050)) ∧
    (0x0F0 ≤ a → (State.construct q c).readByte a = 0)

/-- 70_reset_and_hazards.md R293: a tick before any `load_program` fetches 0x0000 at 0x200 and raises
`UnmodelledSys(0x200, 0x000)`. The spec marks the rule as derived; it rests on D4 and D9. -/
def Obligations.TickBeforeLoadingFaultsOnSys : Prop :=
  ∀ (q : Quirks) (c : Nat), 6000 ≤ c →
    step (State.construct q c) = .next { State.construct q c with fault := some (.unmodelledSys 0x200 0x000) }

/-- 60_exceptions.md R272: `load_program` writes its bytes from 0x200 on and nothing else, up to 0xE00 bytes; a longer program is
refused. Rests on D32. -/
def Obligations.LoadProgramWritesItsBytesOnly : Prop :=
  ∀ (s : State) (bytes : List Byte) (rest : List Transaction), s.sound = true → s.acc = none →
    s.hostCalls = .loadProgram bytes :: rest →
    (bytes.length ≤ 0xE00 →
      ∃ t, step s = .next t ∧ t = { s with mem := t.mem, hostCalls := rest } ∧
        (∀ k, k < bytes.length → t.readByte (0x200 + k) = bytes.getD k 0) ∧
        (∀ a, a < 4096 → (a < 0x200 ∨ 0x200 + bytes.length ≤ a) → t.readByte a = s.readByte a)) ∧
    (0xE00 < bytes.length → step s = .refused (.programTooLong bytes.length))

/-- 60_exceptions.md R273, R274: `keydown(k)` and `keyup(k)` set and clear key `k` and nothing else; any other `k` is refused.
Rests on D33. -/
def Obligations.KeyTransactionsSetOneKey : Prop :=
  ∀ (s : State) (k : Nat) (held : Bool) (rest : List Transaction), s.acc = none →
    s.hostCalls = (if held then .keydown k else .keyup k) :: rest →
    (k < 16 →
      ∃ t, step s = .next t ∧ t = { s with keys := t.keys, hostCalls := rest } ∧
        ∀ j : Key, t.keys[j] = if j.val = k then held else s.keys[j]) ∧
    (16 ≤ k → step s = .refused (.keyOutOfRange k))

/-- 60_exceptions.md R275 to R277: `set_breakpoint`, `remove_breakpoint` and `resume` change one thing each; removing a breakpoint
does not clear `HALTED`. Rests on D34. -/
def Obligations.BreakpointTransactionsEditTheSet : Prop :=
  ∀ (s : State) (a : Word) (rest : List Transaction), s.acc = none →
    (s.hostCalls = .setBreakpoint a :: rest →
      ∃ t, step s = .next t ∧ t = { s with breakpoints := t.breakpoints, hostCalls := rest } ∧
        ∀ b, b ∈ t.breakpoints ↔ b = a ∨ b ∈ s.breakpoints) ∧
    (s.hostCalls = .removeBreakpoint a :: rest →
      ∃ t, step s = .next t ∧ t = { s with breakpoints := t.breakpoints, hostCalls := rest } ∧
        ∀ b, b ∈ t.breakpoints ↔ b ≠ a ∧ b ∈ s.breakpoints) ∧
    (s.hostCalls = .resume :: rest → step s = .next { s with halted := false, hostCalls := rest })

/-! ### Memory -/

/-- 20_memory.md R61: every address is taken modulo 4096 and no memory access of any instruction faults: only `SYS` and `CALL`
(on a full finite stack) ever record a fault. -/
def Obligations.EveryAddressIsModulo4096 : Prop :=
  (∀ (s : State) (a : Nat), s.readByte a = Memory.read s.mem (a % 4096)) ∧
  (∀ (s : State) (a c : Nat) (b : Byte), Memory.wf s.mem = true → c < 4096 →
    Memory.read (s.writeByte a b).mem c = if c = a % 4096 then b else Memory.read s.mem c) ∧
  (∀ (i : Instr) (s t : State), exec i s = .next t → (∀ addr, i ≠ .sys addr) → (∀ addr, i ≠ .call addr) → t.fault = s.fault)

/-- Equal memories are equal data: two canonical memories that read alike at every address are one list (assumption 13, the
model's own form of 20_memory.md R60). -/
def Obligations.CanonicalMemoriesThatReadAlikeAreEqual : Prop :=
  ∀ m m' : List Host.Cell, Memory.wf m = true → Memory.wf m' = true →
    (∀ a, a < 4096 → Memory.read m a = Memory.read m' a) → m = m'

/-- 20_memory.md R67, R70: the word fetched is big-endian, both addresses modulo 4096, also where `pc` is odd or at the end of
memory. The spec marks R70 as derived. -/
def Obligations.FetchIsBigEndianModulo4096 : Prop :=
  ∀ s : State, s.fetch.toNat = (s.readByte s.pc.toNat).toNat * 256 + (s.readByte (s.pc.toNat + 1)).toNat ∧
    (s.pc.toNat % 4096 = 0xFFF → s.fetch.toNat = (s.readByte 0xFFF).toNat * 256 + (s.readByte 0x000).toNat)

/-- 20_memory.md R74: a store into the next instruction's bytes is what the next step fetches. The spec marks the rule as derived,
with D36. -/
def Obligations.FetchSeesTheStoreBeforeIt : Prop :=
  ∀ (s t : State) (x : Reg) (k : Nat), s.sound = true → exec (.ldStore x) s = .next t → k + 1 ≤ x.val →
    s.pc.toNat % 4096 = (s.i.toNat + k) % 4096 →
    t.fetch.toNat = (s.v.getD k 0).toNat * 256 + (s.v.getD (k + 1) 0).toNat

/-! ### Control flow -/

/-- `SYS addr` raises `UnmodelledSys(pc0, addr)` with `pc` at the instruction (40_control_flow.md R117, 60_exceptions.md R244): that
is its own effect. Rests on D4 and D8. -/
def Obligations.SysRaisesUnmodelledSys : Prop :=
  ∀ (s : State) (addr : Addr),
    exec (.sys addr) s = .next { s with pc := s.pc - 2, fault := some (.unmodelledSys (s.pc - 2) addr) }

/-- `JP addr` jumps, and clears `RUNNING` exactly when it jumps to itself (40_control_flow.md R118, R119). The test is the spec's
reading D14 (90_conflicts.md C1). -/
def Obligations.JumpSetsPcAndStopsOnItself : Prop :=
  ∀ (s : State) (addr : Addr),
    (addr.toNat ≠ (s.pc - 2).toNat → exec (.jp addr) s = .next { s with pc := BitVec.ofNat 16 addr.toNat }) ∧
    (addr.toNat = (s.pc - 2).toNat →
      exec (.jp addr) s = .next { s with pc := BitVec.ofNat 16 addr.toNat, running := false })

/-- `CALL addr` pushes the address of the following instruction and jumps; on a full finite stack it raises `StackOverflow(pc0)`
(40_control_flow.md R121, 60_exceptions.md R243). Rests on D28. -/
def Obligations.CallPushesAndJumps : Prop :=
  ∀ (s : State) (addr : Addr),
    (s.stackDepth = none ∨ (∃ d, s.stackDepth = some d ∧ s.stack.length < d) →
      exec (.call addr) s = .next { s with stack := s.stack ++ [s.pc], pc := BitVec.ofNat 16 addr.toNat }) ∧
    (∀ d, s.stackDepth = some d → d ≤ s.stack.length →
      exec (.call addr) s = .next { s with pc := s.pc - 2, fault := some (.stackOverflow (s.pc - 2)) })

/-- `RET` (word 00EE) pops `pc`; with an empty stack `pc <- 0` and nothing is raised, and the next fetch is at address 0, where the
small font stands at reset (40_control_flow.md R122, R123). -/
def Obligations.ReturnPopsOrGoesToZero : Prop :=
  parse 0x00EE = .ok .ret ∧
  (∀ (s : State) (l : List Word) (a : Word), s.stack = l ++ [a] → exec .ret s = .next { s with stack := l, pc := a }) ∧
  (∀ s : State, s.stack = [] → ∃ t, exec .ret s = .next t ∧ t = { s with pc := 0 } ∧
    t.fetch.toNat = (s.readByte 0).toNat * 256 + (s.readByte 1).toNat) ∧
  (∀ k, k < 80 → State.reset.readByte k = smallFont.getD k 0)

/-- `JP Vx,addr` jumps to `addr` plus `V0`, or plus `Vx` under `jumping`, not masked to 12 bits (40_control_flow.md R125). Rests on
D18 and D44. -/
def Obligations.JumpRegisterAddsTheQuirkRegister : Prop :=
  ∀ (s : State) (x : Reg) (addr : Addr),
    ∃ t, exec (.jpV x addr) s = .next t ∧ t = { s with pc := t.pc } ∧
      t.pc.toNat = addr.toNat + (if s.quirks.jumping then s.reg x else s.reg 0).toNat

/-- The four conditional skips: `pc` moves 2 further when the condition holds and nothing else changes (40_control_flow.md R116, R126
to R129). Rests on D3 and D13. -/
def Obligations.ConditionalSkips : Prop :=
  ∀ (s : State) (x y : Reg) (kk : Byte),
    exec (.seImm x kk) s = .next { s with pc := if s.reg x = kk then s.pc + 2 else s.pc } ∧
    exec (.sneImm x kk) s = .next { s with pc := if s.reg x ≠ kk then s.pc + 2 else s.pc } ∧
    exec (.seReg x y) s = .next { s with pc := if s.reg x = s.reg y then s.pc + 2 else s.pc } ∧
    exec (.sneReg x y) s = .next { s with pc := if s.reg x ≠ s.reg y then s.pc + 2 else s.pc }

/-! ### ALU -/

/-- `LD Vx,kk`, `ADD Vx,kk`, `LD Vx,Vy`: one register, no flag (41_alu.md R141 to R143). Rests on D3. -/
def Obligations.PlainRegisterWrites : Prop :=
  ∀ (s : State) (x y : Reg) (kk : Byte),
    (∃ t, exec (.ldImm x kk) s = .next t ∧ onlyRegs s t ∧ ∀ r, t.reg r = if r = x then kk else s.reg r) ∧
    (∃ t, exec (.addImm x kk) s = .next t ∧ onlyRegs s t ∧
      ∀ r, t.reg r = if r = x then BitVec.ofNat 8 ((s.reg x).toNat + kk.toNat) else s.reg r) ∧
    (∃ t, exec (.ldReg x y) s = .next t ∧ onlyRegs s t ∧ ∀ r, t.reg r = if r = x then s.reg y else s.reg r)

/-- `ADD Vx,Vy`: the sum modulo 256 in `Vx` and the carry in `VF`, which wins when `x = 15` (41_alu.md R144). The order of the writes
is D15. -/
def Obligations.AddRegisterSetsCarry : Prop :=
  ∀ (s : State) (x y : Reg), ∃ t, exec (.addReg x y) s = .next t ∧ onlyRegs s t ∧
    ∀ r, t.reg r =
      if r = VF then (if 255 < (s.reg x).toNat + (s.reg y).toNat then 1 else 0)
      else if r = x then BitVec.ofNat 8 (((s.reg x).toNat + (s.reg y).toNat) % 256)
      else s.reg r

/-- `SUB Vx,Vy` and `SUBN Vx,Vy`: the difference modulo 256 and the no-borrow flag (41_alu.md R145, R146). Rests on D3 and D15. -/
def Obligations.SubtractionsSetNoBorrow : Prop :=
  ∀ (s : State) (x y : Reg),
    (∃ t, exec (.sub x y) s = .next t ∧ onlyRegs s t ∧
      ∀ r, t.reg r =
        if r = VF then (if (s.reg y).toNat ≤ (s.reg x).toNat then 1 else 0)
        else if r = x then BitVec.ofNat 8 (((s.reg x).toNat + 256 - (s.reg y).toNat) % 256)
        else s.reg r) ∧
    (∃ t, exec (.subn x y) s = .next t ∧ onlyRegs s t ∧
      ∀ r, t.reg r =
        if r = VF then (if (s.reg x).toNat ≤ (s.reg y).toNat then 1 else 0)
        else if r = x then BitVec.ofNat 8 (((s.reg y).toNat + 256 - (s.reg x).toNat) % 256)
        else s.reg r)

/-- `OR`, `AND`, `XOR`: bit `k` of the result, and `VF <- 0` after it under `vf_reset` only (41_alu.md R147 to R149). Rests on D40. -/
def Obligations.LogicClearsVfUnderTheQuirk : Prop :=
  ∀ (s : State) (x y : Reg) (i : Instr) (op : Bool → Bool → Bool),
    (i = .orReg x y ∧ op = or) ∨ (i = .andReg x y ∧ op = and) ∨ (i = .xorReg x y ∧ op = xor) →
    ∃ t, exec i s = .next t ∧ onlyRegs s t ∧
      ∀ r, if r = VF ∧ s.quirks.vfReset = true then t.reg r = 0
        else if r = x then ∀ k, k < 8 → (t.reg r).getLsbD k = op ((s.reg x).getLsbD k) ((s.reg y).getLsbD k)
        else t.reg r = s.reg r

/-- `SHR` and `SHL`: `Vx` or, without `shifting`, `Vy` is shifted by one into `Vx`, and `VF` is the bit shifted out (41_alu.md R151,
R152, R155). The order of the writes is D15. -/
def Obligations.ShiftsSetTheBitShiftedOut : Prop :=
  ∀ (s : State) (x y : Reg) (src : Byte), src = (if s.quirks.shifting then s.reg x else s.reg y) →
    (∃ t, exec (.shr x y) s = .next t ∧ onlyRegs s t ∧
      ∀ r, (t.reg r).toNat =
        if r = VF then src.toNat % 2 else if r = x then src.toNat / 2 else (s.reg r).toNat) ∧
    (∃ t, exec (.shl x y) s = .next t ∧ onlyRegs s t ∧
      ∀ r, (t.reg r).toNat =
        if r = VF then src.toNat / 128 else if r = x then src.toNat * 2 % 256 else (s.reg r).toNat)

/-! ### Index, memory and flag scratch -/

/-- `LD I,addr` loads the 12-bit address; `ADD I,Vx` adds and masks to 12 bits, with `VF` 1 past 0x0FFF and otherwise 0 or unchanged as
the free parameter ADDI_VF_CLEAR says (42_memory_index.md R171, 41_alu.md R165; assumption 8). Rests on D3, D16 and D17. -/
def Obligations.IndexLoadAndAdd : Prop :=
  ∀ (s : State) (addr : Addr) (x : Reg),
    (∃ t, exec (.ldI addr) s = .next t ∧ t = { s with i := t.i } ∧ t.i.toNat = addr.toNat) ∧
    (∃ t, exec (.addI x) s = .next t ∧ t = { s with i := t.i, v := t.v } ∧
      t.i.toNat = (s.i.toNat + (s.reg x).toNat) % 4096 ∧
      ∀ r, t.reg r =
        if r = VF then
          (if 0x0FFF < s.i.toNat + (s.reg x).toNat then 1 else if Config.addiVfClear = true then 0 else s.reg VF)
        else s.reg r)

/-- `LD F,Vx` (Fx29): `I = 5*Vx`, never above 0x4FB; `LD HF,Vx` (Fx30): `I = 0x050 + 10*Vx`, never above 0xA46; `Vx` is not reduced
(42_memory_index.md R172, R174). -/
def Obligations.GlyphPointers : Prop :=
  ∀ (s : State) (x : Reg),
    parse (BitVec.ofNat 16 (0xF029 + 256 * x.val)) = .ok (.ldF x) ∧
    parse (BitVec.ofNat 16 (0xF030 + 256 * x.val)) = .ok (.ldHF x) ∧
    (∃ t, exec (.ldF x) s = .next t ∧ t = { s with i := t.i } ∧ t.i.toNat = 5 * (s.reg x).toNat ∧ t.i.toNat ≤ 0x4FB) ∧
    (∃ t, exec (.ldHF x) s = .next t ∧ t = { s with i := t.i } ∧ t.i.toNat = 0x050 + 10 * (s.reg x).toNat ∧
      t.i.toNat ≤ 0xA46)

/-- `LD B,Vx` (Fx33): the three decimal digits at `I`, `I+1`, `I+2`, modulo 4096; every other byte, `I`, the registers and all else
as before, whatever the quirks (42_memory_index.md R176). -/
def Obligations.DecimalDigitsAreStored : Prop :=
  ∀ (s : State) (x : Reg), s.sound = true → parse (BitVec.ofNat 16 (0xF033 + 256 * x.val)) = .ok (.ldB x) ∧
    ∃ t, exec (.ldB x) s = .next t ∧ t = { s with mem := t.mem } ∧
      (t.readByte s.i.toNat).toNat = (s.reg x).toNat / 100 ∧
      (t.readByte (s.i.toNat + 1)).toNat = (s.reg x).toNat / 10 % 10 ∧
      (t.readByte (s.i.toNat + 2)).toNat = (s.reg x).toNat % 10 ∧
      ∀ a, a < 4096 → (∀ k, k < 3 → a ≠ (s.i.toNat + k) % 4096) → t.readByte a = s.readByte a

/-- `LD [I],Vx`: byte `k` of the run is `V[k]` for `k <= x`, at `(I + k) mod 4096`; every other byte as before; `I` advances by
`x + 1` and is masked under `memory` only (42_memory_index.md R178). Rests on D17. -/
def Obligations.StoreRegistersAtIndex : Prop :=
  ∀ (s : State) (x : Reg), s.sound = true →
    ∃ t, exec (.ldStore x) s = .next t ∧ t = { s with mem := t.mem, i := t.i } ∧
      t.i.toNat = (if s.quirks.memory then (s.i.toNat + x.val + 1) % 4096 else s.i.toNat) ∧
      (∀ r : Reg, r.val ≤ x.val → t.readByte (s.i.toNat + r.val) = s.reg r) ∧
      ∀ a, a < 4096 → (∀ k, k ≤ x.val → a ≠ (s.i.toNat + k) % 4096) → t.readByte a = s.readByte a

/-- `LD Vx,[I]`: `V[r]` is the byte at `(I + r) mod 4096` for `r <= x`; the rest as before; `I` as in the store (42_memory_index.md
R180). Rests on D17. -/
def Obligations.LoadRegistersFromIndex : Prop :=
  ∀ (s : State) (x : Reg), ∃ t, exec (.ldLoad x) s = .next t ∧ t = { s with v := t.v, i := t.i } ∧
    t.i.toNat = (if s.quirks.memory then (s.i.toNat + x.val + 1) % 4096 else s.i.toNat) ∧
    ∀ r : Reg, t.reg r = if r.val ≤ x.val then s.readByte ((s.i.toNat + r.val) % 4096) else s.reg r

/-- `SAVE Vx` and `LOAD Vx` move `V0 .. V[min(x,7)]` to and from the scratch and nothing else, by the register index `x`
(42_memory_index.md R184, R186). Rests on D27. -/
def Obligations.SaveAndLoadMoveTheScratch : Prop :=
  ∀ (s : State) (x : Reg),
    (∃ t, exec (.save x) s = .next t ∧ t = { s with flags := t.flags } ∧
      ∀ k : Fin 8, t.flags[k] = if k.val ≤ x.val then s.v[k.val] else s.flags[k]) ∧
    (∃ t, exec (.load x) s = .next t ∧ onlyRegs s t ∧
      ∀ r : Reg, t.reg r = if r.val ≤ min x.val 7 then s.flags.getD r.val 0 else s.reg r)

/-- The source's property of `SAVE` then `LOAD` (95_test_vectors.md E9): whatever the registers became in between, `V0 .. V[min(x,7)]`
come back and every other register keeps what it had before the `LOAD`. Rests on D27. -/
def Obligations.SaveThenLoadRestores : Prop :=
  ∀ (s t u : State) (x : Reg) (v : Vector Byte 16), exec (.save x) s = .next t → exec (.load x) { t with v := v } = .next u →
    ∀ r : Reg, u.reg r = if r.val ≤ min x.val 7 then s.reg r else v[r]

/-! ### Timers, keys, random -/

/-- `LD Vx,DT`, `LD DT,Vx`, `LD ST,Vx` (43_timers_input_random.md R190, R192, R194). Rests on D3. -/
def Obligations.TimerAccess : Prop :=
  ∀ (s : State) (x : Reg),
    (∃ t, exec (.ldVxDt x) s = .next t ∧ onlyRegs s t ∧ ∀ r, t.reg r = if r = x then s.dt else s.reg r) ∧
    exec (.ldDtVx x) s = .next { s with dt := s.reg x } ∧ exec (.ldStVx x) s = .next { s with st := s.reg x }

/-- `SKP` and `SKNP` test the key named by the low nibble of `Vx` and change `pc` only (43_timers_input_random.md R196, R198, R200).
The skip distance is D13. -/
def Obligations.KeySkipsTestTheLowNibble : Prop :=
  ∀ (s : State) (x : Reg) (k : Key), k.val = (s.reg x &&& 0x0F).toNat →
    exec (.skp x) s = .next { s with pc := if s.keys[k] then s.pc + 2 else s.pc } ∧
    exec (.sknp x) s = .next { s with pc := if s.keys[k] then s.pc else s.pc + 2 }

/-- `LD Vx,K`: with no key held `pc` goes back to the instruction and nothing else changes; else the least key held is stored
(43_timers_input_random.md R202). Rests on D35. -/
def Obligations.KeyWaitTakesTheLeastKey : Prop :=
  ∀ (s : State) (x : Reg),
    ((∀ k : Key, s.keys[k] = false) → exec (.ldVxK x) s = .next { s with pc := s.pc - 2 }) ∧
    (∀ k : Key, s.keys[k] = true → (∀ j : Key, j < k → s.keys[j] = false) →
      ∃ t, exec (.ldVxK x) s = .next t ∧ onlyRegs s t ∧ ∀ r, t.reg r = if r = x then BitVec.ofNat 8 k.val else s.reg r)

/-- `RND Vx,kk` stores a value in `0 .. kk`, made from the next free draw by a function that reaches every value in range
(43_timers_input_random.md R206; assumption 11). It holds for every value of the draw. Rests on D29. -/
def Obligations.RandomValueIsAnyInRange : Prop :=
  ∀ (x : Reg) (kk : Byte), ∃ f : Byte → Byte, (∀ b, (f b).toNat ≤ kk.toNat) ∧
    (∀ r : Byte, r.toNat ≤ kk.toNat → ∃ b, f b = r) ∧
    ∀ s : State, ∃ t, exec (.rnd x kk) s = .next t ∧ t = { s with v := t.v, rndCount := s.rndCount + 1 } ∧
      ∀ r, t.reg r = if r = x then f (Config.rndDraw s.rndCount) else s.reg r

/-! ### Display -/

/-- `CLS` (word 00E0, and 0230, which decodes identically: 30_encoding.md R93): every pixel false, the buffer's size and all else as before
(44_display.md R212). -/
def Obligations.ClearScreenMakesEveryPixelFalse : Prop :=
  parse 0x0230 = parse 0x00E0 ∧ parse 0x00E0 = .ok .cls ∧
  ∀ s : State, ∃ t, exec .cls s = .next t ∧ t = { s with vram := t.vram } ∧ t.vram.length = s.width * s.height ∧
    ∀ x y, x < s.width → y < s.height → pixelAt t.vram s.width x y = false

/-- `LORES` and `HIRES` switch the mode and clear the buffer, also when the mode does not change (44_display.md R216, R218). Rests on
D20. -/
def Obligations.ModeSwitchesClearTheBuffer : Prop :=
  ∀ s : State,
    (∃ t, exec .lores s = .next t ∧ t = { s with hires := false, vram := t.vram } ∧ t.vram.length = 64 * 32 ∧
      ∀ x y, x < 64 → y < 32 → pixelAt t.vram 64 x y = false) ∧
    (∃ t, exec .hires s = .next t ∧ t = { s with hires := true, vram := t.vram } ∧ t.vram.length = 128 * 64 ∧
      ∀ x y, x < 128 → y < 64 → pixelAt t.vram 128 x y = false)

/-- `SCD n` scrolls down `n` rows: rows leave through the bottom and the top `n` rows become false (44_display.md R220). Rests on D19
(90_conflicts.md C2). -/
def Obligations.ScrollDownMovesRows : Prop :=
  ∀ (s : State) (n : Count), ∃ t, exec (.scd n) s = .next t ∧ t = { s with vram := t.vram } ∧
    t.vram.length = s.width * s.height ∧
    ∀ x y, x < s.width → y < s.height →
      pixelAt t.vram s.width x y = if n.val ≤ y then pixelAt s.vram s.width x (y - n.val) else false

/-- `SCR` (word 00FB) and `SCL` (word 00FC) scroll right and left 4 pixels, each row by itself (44_display.md R222, R224). -/
def Obligations.SidewaysScrollsMoveColumns : Prop :=
  parse 0x00FB = .ok .scr ∧ parse 0x00FC = .ok .scl ∧
  ∀ s : State,
    (∃ t, exec .scr s = .next t ∧ t = { s with vram := t.vram } ∧ t.vram.length = s.width * s.height ∧
      ∀ x y, x < s.width → y < s.height →
        pixelAt t.vram s.width x y = if 4 ≤ x then pixelAt s.vram s.width (x - 4) y else false) ∧
    (∃ t, exec .scl s = .next t ∧ t = { s with vram := t.vram } ∧ t.vram.length = s.width * s.height ∧
      ∀ x y, x < s.width → y < s.height →
        pixelAt t.vram s.width x y = if x + 4 < s.width then pixelAt s.vram s.width (x + 4) y else false)

/-- `DRW Vx,Vy,n`: every pixel is XORed with the sprite's, and `VF` is 1 exactly when a set pixel was covered, else 0; no other
register and nothing else changes (44_display.md R225, R226). Rests on D22 and D23. -/
def Obligations.DrawXorsTheSprite : Prop :=
  ∀ (s : State) (x y : Reg) (n : Count), s.sound = true →
    ∃ t, exec (.drw x y n) s = .next t ∧ t = { s with v := t.v, vram := t.vram } ∧ t.vram.length = s.vram.length ∧
      (∀ r, r ≠ VF → t.reg r = s.reg r) ∧
      (∀ px py, px < s.width → py < s.height →
        (covers8 s x y n.val px py → pixelAt t.vram s.width px py = !pixelAt s.vram s.width px py) ∧
        (¬ covers8 s x y n.val px py → pixelAt t.vram s.width px py = pixelAt s.vram s.width px py)) ∧
      ((∃ px py, px < s.width ∧ py < s.height ∧ covers8 s x y n.val px py ∧ pixelAt s.vram s.width px py = true) →
        t.reg VF = 1) ∧
      ((∀ px py, px < s.width → py < s.height → covers8 s x y n.val px py → pixelAt s.vram s.width px py = false) →
        t.reg VF = 0)

/-- `DRW Vx,Vy,0`: the 16x16 sprite is XORed in, and `VF` is the number of rows off the bottom edge (none under `sprite_wrapping`) plus
1 for a collision (44_display.md R230). Rests on D21 and D22. -/
def Obligations.Draw16XorsAndCountsRows : Prop :=
  ∀ (s : State) (x y : Reg), s.sound = true →
    ∃ t, exec (.drw16 x y) s = .next t ∧ t = { s with v := t.v, vram := t.vram } ∧ t.vram.length = s.vram.length ∧
      (∀ r, r ≠ VF → t.reg r = s.reg r) ∧
      (∀ px py, px < s.width → py < s.height →
        (covers16 s x y px py → pixelAt t.vram s.width px py = !pixelAt s.vram s.width px py) ∧
        (¬ covers16 s x y px py → pixelAt t.vram s.width px py = pixelAt s.vram s.width px py)) ∧
      ((∃ px py, px < s.width ∧ py < s.height ∧ covers16 s x y px py ∧ pixelAt s.vram s.width px py = true) →
        (t.reg VF).toNat = rowsOff s y + 1) ∧
      ((∀ px py, px < s.width → py < s.height → covers16 s x y px py → pixelAt s.vram s.width px py = false) →
        (t.reg VF).toNat = rowsOff s y)
end

