-- ==== Sys2Proof/Laws/Decode.lean ====
section
/-! SUPPORT. The fields of an encoded word: each format of 30_encoding.md R87 gives back every field put into it. -/

namespace Sys2Proof

theorem bitField_word (n lo len : Nat) (h : n < 65536) : bitField (BitVec.ofNat 16 n) lo len = n / 2 ^ lo % 2 ^ len := by
  rw [bitField, BitVec.toNat_ofNat, Nat.mod_eq_of_lt h]

section NNN
variable (o : Nat) (addr : Addr) (ho : o < 16)
include ho

theorem wordNNN_lt : o * 4096 + addr.toNat < 65536 := by have := addr.isLt; omega
theorem fieldO_wordNNN : fieldO (wordNNN o addr) = o := by
  rw [fieldO, wordNNN, bitField_word _ _ _ (wordNNN_lt o addr ho)]; have := addr.isLt; omega
theorem fieldNNN_wordNNN : fieldNNN (wordNNN o addr) = addr := by
  rw [fieldNNN, wordNNN, bitField_word _ _ _ (wordNNN_lt o addr ho)]
  apply BitVec.eq_of_toNat_eq; have := addr.isLt; rw [BitVec.toNat_ofNat]; omega
theorem fieldX_wordNNN : fieldX (wordNNN o addr) = addrReg addr := by
  rw [fieldX, wordNNN, bitField_word _ _ _ (wordNNN_lt o addr ho), addrReg]
  ext; have := addr.isLt; simp only [Fin.val_ofNat]; omega
end NNN

section XKK
variable (o : Nat) (x : Reg) (kk : Byte) (ho : o < 16)
include ho

theorem wordXKK_lt : o * 4096 + x.val * 256 + kk.toNat < 65536 := by have := x.isLt; have := kk.isLt; omega
theorem fieldO_wordXKK : fieldO (wordXKK o x kk) = o := by
  rw [fieldO, wordXKK, bitField_word _ _ _ (wordXKK_lt o x kk ho)]; have := x.isLt; have := kk.isLt; omega
theorem fieldX_wordXKK : fieldX (wordXKK o x kk) = x := by
  rw [fieldX, wordXKK, bitField_word _ _ _ (wordXKK_lt o x kk ho)]
  ext; have := x.isLt; have := kk.isLt; simp only [Fin.val_ofNat]; omega
theorem fieldKK_wordXKK : fieldKK (wordXKK o x kk) = kk := by
  rw [fieldKK, wordXKK, bitField_word _ _ _ (wordXKK_lt o x kk ho)]
  apply BitVec.eq_of_toNat_eq; have := x.isLt; have := kk.isLt; rw [BitVec.toNat_ofNat]; omega
end XKK

section XYN
variable (o : Nat) (x y : Reg) (n : Nat) (ho : o < 16) (hn : n < 16)
include ho hn

theorem wordXYN_lt : o * 4096 + x.val * 256 + y.val * 16 + n < 65536 := by have := x.isLt; have := y.isLt; omega
theorem fieldO_wordXYN : fieldO (wordXYN o x y n) = o := by
  rw [fieldO, wordXYN, bitField_word _ _ _ (wordXYN_lt o x y n ho hn)]; have := x.isLt; have := y.isLt; omega
theorem fieldX_wordXYN : fieldX (wordXYN o x y n) = x := by
  rw [fieldX, wordXYN, bitField_word _ _ _ (wordXYN_lt o x y n ho hn)]
  ext; have := x.isLt; have := y.isLt; simp only [Fin.val_ofNat]; omega
theorem fieldY_wordXYN : fieldY (wordXYN o x y n) = y := by
  rw [fieldY, wordXYN, bitField_word _ _ _ (wordXYN_lt o x y n ho hn)]
  ext; have := x.isLt; have := y.isLt; simp only [Fin.val_ofNat]; omega
theorem low4_wordXYN : bitField (wordXYN o x y n) 0 4 = n := by
  rw [wordXYN, bitField_word _ _ _ (wordXYN_lt o x y n ho hn)]; have := x.isLt; have := y.isLt; omega
end XYN

theorem fieldN_wordXYN (o : Nat) (x y : Reg) (n : Count) (ho : o < 16) : fieldN (wordXYN o x y n.val) = n := by
  rw [fieldN, low4_wordXYN o x y n.val ho n.isLt]; ext; simp

section X
variable (o : Nat) (x : Reg) (f : Nat) (ho : o < 16) (hf : f < 256)
include ho hf

theorem wordX_lt : o * 4096 + x.val * 256 + f < 65536 := by have := x.isLt; omega
theorem fieldO_wordX : fieldO (wordX o x f) = o := by
  rw [fieldO, wordX, bitField_word _ _ _ (wordX_lt o x f ho hf)]; have := x.isLt; omega
theorem fieldX_wordX : fieldX (wordX o x f) = x := by
  rw [fieldX, wordX, bitField_word _ _ _ (wordX_lt o x f ho hf)]
  ext; have := x.isLt; simp only [Fin.val_ofNat]; omega
theorem low8_wordX : bitField (wordX o x f) 0 8 = f := by
  rw [wordX, bitField_word _ _ _ (wordX_lt o x f ho hf)]; have := x.isLt; omega
end X

/-- Memory's two bytes of a word give the word back (20_memory.md R67). -/
theorem wordOfBytes_bytesOfWord (w : Word) :
    wordOfBytes (BitVec.ofNat 8 (bitField w 8 8)) (BitVec.ofNat 8 (bitField w 0 8)) = w := by
  apply BitVec.eq_of_toNat_eq
  have := w.isLt
  simp only [wordOfBytes, bitField, BitVec.toNat_ofNat]
  omega

end Sys2Proof
end

