-- ==== Sys2Proof/Laws/State.lean ====
section
/-! SUPPORT. One lemma per field of the state per update of Machine/Ops.lean, each true by rfl, so that no proof unfolds a
record update. -/

namespace Sys2Proof.Machine

section setV
variable (s : State) (x : Reg) (b : Byte)
@[simp] theorem State.setV_v : (s.setV x b).v = s.v.set x.val b x.isLt := rfl
@[simp] theorem State.setV_i : (s.setV x b).i = s.i := rfl
@[simp] theorem State.setV_pc : (s.setV x b).pc = s.pc := rfl
@[simp] theorem State.setV_stack : (s.setV x b).stack = s.stack := rfl
@[simp] theorem State.setV_dt : (s.setV x b).dt = s.dt := rfl
@[simp] theorem State.setV_st : (s.setV x b).st = s.st := rfl
@[simp] theorem State.setV_flags : (s.setV x b).flags = s.flags := rfl
@[simp] theorem State.setV_running : (s.setV x b).running = s.running := rfl
@[simp] theorem State.setV_hires : (s.setV x b).hires = s.hires := rfl
@[simp] theorem State.setV_vram : (s.setV x b).vram = s.vram := rfl
@[simp] theorem State.setV_keys : (s.setV x b).keys = s.keys := rfl
@[simp] theorem State.setV_mem : (s.setV x b).mem = s.mem := rfl
@[simp] theorem State.setV_breakpoints : (s.setV x b).breakpoints = s.breakpoints := rfl
@[simp] theorem State.setV_halted : (s.setV x b).halted = s.halted := rfl
@[simp] theorem State.setV_quirks : (s.setV x b).quirks = s.quirks := rfl
@[simp] theorem State.setV_clockSpeed : (s.setV x b).clockSpeed = s.clockSpeed := rfl
@[simp] theorem State.setV_fault : (s.setV x b).fault = s.fault := rfl
@[simp] theorem State.setV_acc : (s.setV x b).acc = s.acc := rfl
@[simp] theorem State.setV_stackDepth : (s.setV x b).stackDepth = s.stackDepth := rfl
@[simp] theorem State.setV_rndCount : (s.setV x b).rndCount = s.rndCount := rfl
@[simp] theorem State.setV_hostCalls : (s.setV x b).hostCalls = s.hostCalls := rfl
end setV

section setRegs
variable (s : State) (r : Vector Byte 16)
@[simp] theorem State.setRegs_v : (s.setRegs r).v = r := rfl
@[simp] theorem State.setRegs_i : (s.setRegs r).i = s.i := rfl
@[simp] theorem State.setRegs_pc : (s.setRegs r).pc = s.pc := rfl
@[simp] theorem State.setRegs_stack : (s.setRegs r).stack = s.stack := rfl
@[simp] theorem State.setRegs_dt : (s.setRegs r).dt = s.dt := rfl
@[simp] theorem State.setRegs_st : (s.setRegs r).st = s.st := rfl
@[simp] theorem State.setRegs_flags : (s.setRegs r).flags = s.flags := rfl
@[simp] theorem State.setRegs_running : (s.setRegs r).running = s.running := rfl
@[simp] theorem State.setRegs_hires : (s.setRegs r).hires = s.hires := rfl
@[simp] theorem State.setRegs_vram : (s.setRegs r).vram = s.vram := rfl
@[simp] theorem State.setRegs_keys : (s.setRegs r).keys = s.keys := rfl
@[simp] theorem State.setRegs_mem : (s.setRegs r).mem = s.mem := rfl
@[simp] theorem State.setRegs_breakpoints : (s.setRegs r).breakpoints = s.breakpoints := rfl
@[simp] theorem State.setRegs_halted : (s.setRegs r).halted = s.halted := rfl
@[simp] theorem State.setRegs_quirks : (s.setRegs r).quirks = s.quirks := rfl
@[simp] theorem State.setRegs_clockSpeed : (s.setRegs r).clockSpeed = s.clockSpeed := rfl
@[simp] theorem State.setRegs_fault : (s.setRegs r).fault = s.fault := rfl
@[simp] theorem State.setRegs_acc : (s.setRegs r).acc = s.acc := rfl
@[simp] theorem State.setRegs_stackDepth : (s.setRegs r).stackDepth = s.stackDepth := rfl
@[simp] theorem State.setRegs_rndCount : (s.setRegs r).rndCount = s.rndCount := rfl
@[simp] theorem State.setRegs_hostCalls : (s.setRegs r).hostCalls = s.hostCalls := rfl
end setRegs

section setI
variable (s : State) (a : Word)
@[simp] theorem State.setI_v : (s.setI a).v = s.v := rfl
@[simp] theorem State.setI_i : (s.setI a).i = a := rfl
@[simp] theorem State.setI_pc : (s.setI a).pc = s.pc := rfl
@[simp] theorem State.setI_stack : (s.setI a).stack = s.stack := rfl
@[simp] theorem State.setI_dt : (s.setI a).dt = s.dt := rfl
@[simp] theorem State.setI_st : (s.setI a).st = s.st := rfl
@[simp] theorem State.setI_flags : (s.setI a).flags = s.flags := rfl
@[simp] theorem State.setI_running : (s.setI a).running = s.running := rfl
@[simp] theorem State.setI_hires : (s.setI a).hires = s.hires := rfl
@[simp] theorem State.setI_vram : (s.setI a).vram = s.vram := rfl
@[simp] theorem State.setI_keys : (s.setI a).keys = s.keys := rfl
@[simp] theorem State.setI_mem : (s.setI a).mem = s.mem := rfl
@[simp] theorem State.setI_breakpoints : (s.setI a).breakpoints = s.breakpoints := rfl
@[simp] theorem State.setI_halted : (s.setI a).halted = s.halted := rfl
@[simp] theorem State.setI_quirks : (s.setI a).quirks = s.quirks := rfl
@[simp] theorem State.setI_clockSpeed : (s.setI a).clockSpeed = s.clockSpeed := rfl
@[simp] theorem State.setI_fault : (s.setI a).fault = s.fault := rfl
@[simp] theorem State.setI_acc : (s.setI a).acc = s.acc := rfl
@[simp] theorem State.setI_stackDepth : (s.setI a).stackDepth = s.stackDepth := rfl
@[simp] theorem State.setI_rndCount : (s.setI a).rndCount = s.rndCount := rfl
@[simp] theorem State.setI_hostCalls : (s.setI a).hostCalls = s.hostCalls := rfl
end setI

section setPc
variable (s : State) (a : Word)
@[simp] theorem State.setPc_v : (s.setPc a).v = s.v := rfl
@[simp] theorem State.setPc_i : (s.setPc a).i = s.i := rfl
@[simp] theorem State.setPc_pc : (s.setPc a).pc = a := rfl
@[simp] theorem State.setPc_stack : (s.setPc a).stack = s.stack := rfl
@[simp] theorem State.setPc_dt : (s.setPc a).dt = s.dt := rfl
@[simp] theorem State.setPc_st : (s.setPc a).st = s.st := rfl
@[simp] theorem State.setPc_flags : (s.setPc a).flags = s.flags := rfl
@[simp] theorem State.setPc_running : (s.setPc a).running = s.running := rfl
@[simp] theorem State.setPc_hires : (s.setPc a).hires = s.hires := rfl
@[simp] theorem State.setPc_vram : (s.setPc a).vram = s.vram := rfl
@[simp] theorem State.setPc_keys : (s.setPc a).keys = s.keys := rfl
@[simp] theorem State.setPc_mem : (s.setPc a).mem = s.mem := rfl
@[simp] theorem State.setPc_breakpoints : (s.setPc a).breakpoints = s.breakpoints := rfl
@[simp] theorem State.setPc_halted : (s.setPc a).halted = s.halted := rfl
@[simp] theorem State.setPc_quirks : (s.setPc a).quirks = s.quirks := rfl
@[simp] theorem State.setPc_clockSpeed : (s.setPc a).clockSpeed = s.clockSpeed := rfl
@[simp] theorem State.setPc_fault : (s.setPc a).fault = s.fault := rfl
@[simp] theorem State.setPc_acc : (s.setPc a).acc = s.acc := rfl
@[simp] theorem State.setPc_stackDepth : (s.setPc a).stackDepth = s.stackDepth := rfl
@[simp] theorem State.setPc_rndCount : (s.setPc a).rndCount = s.rndCount := rfl
@[simp] theorem State.setPc_hostCalls : (s.setPc a).hostCalls = s.hostCalls := rfl
end setPc

section setStack
variable (s : State) (l : List Word)
@[simp] theorem State.setStack_v : (s.setStack l).v = s.v := rfl
@[simp] theorem State.setStack_i : (s.setStack l).i = s.i := rfl
@[simp] theorem State.setStack_pc : (s.setStack l).pc = s.pc := rfl
@[simp] theorem State.setStack_stack : (s.setStack l).stack = l := rfl
@[simp] theorem State.setStack_dt : (s.setStack l).dt = s.dt := rfl
@[simp] theorem State.setStack_st : (s.setStack l).st = s.st := rfl
@[simp] theorem State.setStack_flags : (s.setStack l).flags = s.flags := rfl
@[simp] theorem State.setStack_running : (s.setStack l).running = s.running := rfl
@[simp] theorem State.setStack_hires : (s.setStack l).hires = s.hires := rfl
@[simp] theorem State.setStack_vram : (s.setStack l).vram = s.vram := rfl
@[simp] theorem State.setStack_keys : (s.setStack l).keys = s.keys := rfl
@[simp] theorem State.setStack_mem : (s.setStack l).mem = s.mem := rfl
@[simp] theorem State.setStack_breakpoints : (s.setStack l).breakpoints = s.breakpoints := rfl
@[simp] theorem State.setStack_halted : (s.setStack l).halted = s.halted := rfl
@[simp] theorem State.setStack_quirks : (s.setStack l).quirks = s.quirks := rfl
@[simp] theorem State.setStack_clockSpeed : (s.setStack l).clockSpeed = s.clockSpeed := rfl
@[simp] theorem State.setStack_fault : (s.setStack l).fault = s.fault := rfl
@[simp] theorem State.setStack_acc : (s.setStack l).acc = s.acc := rfl
@[simp] theorem State.setStack_stackDepth : (s.setStack l).stackDepth = s.stackDepth := rfl
@[simp] theorem State.setStack_rndCount : (s.setStack l).rndCount = s.rndCount := rfl
@[simp] theorem State.setStack_hostCalls : (s.setStack l).hostCalls = s.hostCalls := rfl
end setStack

section setDt
variable (s : State) (b : Byte)
@[simp] theorem State.setDt_v : (s.setDt b).v = s.v := rfl
@[simp] theorem State.setDt_i : (s.setDt b).i = s.i := rfl
@[simp] theorem State.setDt_pc : (s.setDt b).pc = s.pc := rfl
@[simp] theorem State.setDt_stack : (s.setDt b).stack = s.stack := rfl
@[simp] theorem State.setDt_dt : (s.setDt b).dt = b := rfl
@[simp] theorem State.setDt_st : (s.setDt b).st = s.st := rfl
@[simp] theorem State.setDt_flags : (s.setDt b).flags = s.flags := rfl
@[simp] theorem State.setDt_running : (s.setDt b).running = s.running := rfl
@[simp] theorem State.setDt_hires : (s.setDt b).hires = s.hires := rfl
@[simp] theorem State.setDt_vram : (s.setDt b).vram = s.vram := rfl
@[simp] theorem State.setDt_keys : (s.setDt b).keys = s.keys := rfl
@[simp] theorem State.setDt_mem : (s.setDt b).mem = s.mem := rfl
@[simp] theorem State.setDt_breakpoints : (s.setDt b).breakpoints = s.breakpoints := rfl
@[simp] theorem State.setDt_halted : (s.setDt b).halted = s.halted := rfl
@[simp] theorem State.setDt_quirks : (s.setDt b).quirks = s.quirks := rfl
@[simp] theorem State.setDt_clockSpeed : (s.setDt b).clockSpeed = s.clockSpeed := rfl
@[simp] theorem State.setDt_fault : (s.setDt b).fault = s.fault := rfl
@[simp] theorem State.setDt_acc : (s.setDt b).acc = s.acc := rfl
@[simp] theorem State.setDt_stackDepth : (s.setDt b).stackDepth = s.stackDepth := rfl
@[simp] theorem State.setDt_rndCount : (s.setDt b).rndCount = s.rndCount := rfl
@[simp] theorem State.setDt_hostCalls : (s.setDt b).hostCalls = s.hostCalls := rfl
end setDt

section setSt
variable (s : State) (b : Byte)
@[simp] theorem State.setSt_v : (s.setSt b).v = s.v := rfl
@[simp] theorem State.setSt_i : (s.setSt b).i = s.i := rfl
@[simp] theorem State.setSt_pc : (s.setSt b).pc = s.pc := rfl
@[simp] theorem State.setSt_stack : (s.setSt b).stack = s.stack := rfl
@[simp] theorem State.setSt_dt : (s.setSt b).dt = s.dt := rfl
@[simp] theorem State.setSt_st : (s.setSt b).st = b := rfl
@[simp] theorem State.setSt_flags : (s.setSt b).flags = s.flags := rfl
@[simp] theorem State.setSt_running : (s.setSt b).running = s.running := rfl
@[simp] theorem State.setSt_hires : (s.setSt b).hires = s.hires := rfl
@[simp] theorem State.setSt_vram : (s.setSt b).vram = s.vram := rfl
@[simp] theorem State.setSt_keys : (s.setSt b).keys = s.keys := rfl
@[simp] theorem State.setSt_mem : (s.setSt b).mem = s.mem := rfl
@[simp] theorem State.setSt_breakpoints : (s.setSt b).breakpoints = s.breakpoints := rfl
@[simp] theorem State.setSt_halted : (s.setSt b).halted = s.halted := rfl
@[simp] theorem State.setSt_quirks : (s.setSt b).quirks = s.quirks := rfl
@[simp] theorem State.setSt_clockSpeed : (s.setSt b).clockSpeed = s.clockSpeed := rfl
@[simp] theorem State.setSt_fault : (s.setSt b).fault = s.fault := rfl
@[simp] theorem State.setSt_acc : (s.setSt b).acc = s.acc := rfl
@[simp] theorem State.setSt_stackDepth : (s.setSt b).stackDepth = s.stackDepth := rfl
@[simp] theorem State.setSt_rndCount : (s.setSt b).rndCount = s.rndCount := rfl
@[simp] theorem State.setSt_hostCalls : (s.setSt b).hostCalls = s.hostCalls := rfl
end setSt

section setFlags
variable (s : State) (r : Vector Byte 8)
@[simp] theorem State.setFlags_v : (s.setFlags r).v = s.v := rfl
@[simp] theorem State.setFlags_i : (s.setFlags r).i = s.i := rfl
@[simp] theorem State.setFlags_pc : (s.setFlags r).pc = s.pc := rfl
@[simp] theorem State.setFlags_stack : (s.setFlags r).stack = s.stack := rfl
@[simp] theorem State.setFlags_dt : (s.setFlags r).dt = s.dt := rfl
@[simp] theorem State.setFlags_st : (s.setFlags r).st = s.st := rfl
@[simp] theorem State.setFlags_flags : (s.setFlags r).flags = r := rfl
@[simp] theorem State.setFlags_running : (s.setFlags r).running = s.running := rfl
@[simp] theorem State.setFlags_hires : (s.setFlags r).hires = s.hires := rfl
@[simp] theorem State.setFlags_vram : (s.setFlags r).vram = s.vram := rfl
@[simp] theorem State.setFlags_keys : (s.setFlags r).keys = s.keys := rfl
@[simp] theorem State.setFlags_mem : (s.setFlags r).mem = s.mem := rfl
@[simp] theorem State.setFlags_breakpoints : (s.setFlags r).breakpoints = s.breakpoints := rfl
@[simp] theorem State.setFlags_halted : (s.setFlags r).halted = s.halted := rfl
@[simp] theorem State.setFlags_quirks : (s.setFlags r).quirks = s.quirks := rfl
@[simp] theorem State.setFlags_clockSpeed : (s.setFlags r).clockSpeed = s.clockSpeed := rfl
@[simp] theorem State.setFlags_fault : (s.setFlags r).fault = s.fault := rfl
@[simp] theorem State.setFlags_acc : (s.setFlags r).acc = s.acc := rfl
@[simp] theorem State.setFlags_stackDepth : (s.setFlags r).stackDepth = s.stackDepth := rfl
@[simp] theorem State.setFlags_rndCount : (s.setFlags r).rndCount = s.rndCount := rfl
@[simp] theorem State.setFlags_hostCalls : (s.setFlags r).hostCalls = s.hostCalls := rfl
end setFlags

section setRunning
variable (s : State) (b : Bool)
@[simp] theorem State.setRunning_v : (s.setRunning b).v = s.v := rfl
@[simp] theorem State.setRunning_i : (s.setRunning b).i = s.i := rfl
@[simp] theorem State.setRunning_pc : (s.setRunning b).pc = s.pc := rfl
@[simp] theorem State.setRunning_stack : (s.setRunning b).stack = s.stack := rfl
@[simp] theorem State.setRunning_dt : (s.setRunning b).dt = s.dt := rfl
@[simp] theorem State.setRunning_st : (s.setRunning b).st = s.st := rfl
@[simp] theorem State.setRunning_flags : (s.setRunning b).flags = s.flags := rfl
@[simp] theorem State.setRunning_running : (s.setRunning b).running = b := rfl
@[simp] theorem State.setRunning_hires : (s.setRunning b).hires = s.hires := rfl
@[simp] theorem State.setRunning_vram : (s.setRunning b).vram = s.vram := rfl
@[simp] theorem State.setRunning_keys : (s.setRunning b).keys = s.keys := rfl
@[simp] theorem State.setRunning_mem : (s.setRunning b).mem = s.mem := rfl
@[simp] theorem State.setRunning_breakpoints : (s.setRunning b).breakpoints = s.breakpoints := rfl
@[simp] theorem State.setRunning_halted : (s.setRunning b).halted = s.halted := rfl
@[simp] theorem State.setRunning_quirks : (s.setRunning b).quirks = s.quirks := rfl
@[simp] theorem State.setRunning_clockSpeed : (s.setRunning b).clockSpeed = s.clockSpeed := rfl
@[simp] theorem State.setRunning_fault : (s.setRunning b).fault = s.fault := rfl
@[simp] theorem State.setRunning_acc : (s.setRunning b).acc = s.acc := rfl
@[simp] theorem State.setRunning_stackDepth : (s.setRunning b).stackDepth = s.stackDepth := rfl
@[simp] theorem State.setRunning_rndCount : (s.setRunning b).rndCount = s.rndCount := rfl
@[simp] theorem State.setRunning_hostCalls : (s.setRunning b).hostCalls = s.hostCalls := rfl
end setRunning

section setHires
variable (s : State) (b : Bool)
@[simp] theorem State.setHires_v : (s.setHires b).v = s.v := rfl
@[simp] theorem State.setHires_i : (s.setHires b).i = s.i := rfl
@[simp] theorem State.setHires_pc : (s.setHires b).pc = s.pc := rfl
@[simp] theorem State.setHires_stack : (s.setHires b).stack = s.stack := rfl
@[simp] theorem State.setHires_dt : (s.setHires b).dt = s.dt := rfl
@[simp] theorem State.setHires_st : (s.setHires b).st = s.st := rfl
@[simp] theorem State.setHires_flags : (s.setHires b).flags = s.flags := rfl
@[simp] theorem State.setHires_running : (s.setHires b).running = s.running := rfl
@[simp] theorem State.setHires_hires : (s.setHires b).hires = b := rfl
@[simp] theorem State.setHires_vram : (s.setHires b).vram = s.vram := rfl
@[simp] theorem State.setHires_keys : (s.setHires b).keys = s.keys := rfl
@[simp] theorem State.setHires_mem : (s.setHires b).mem = s.mem := rfl
@[simp] theorem State.setHires_breakpoints : (s.setHires b).breakpoints = s.breakpoints := rfl
@[simp] theorem State.setHires_halted : (s.setHires b).halted = s.halted := rfl
@[simp] theorem State.setHires_quirks : (s.setHires b).quirks = s.quirks := rfl
@[simp] theorem State.setHires_clockSpeed : (s.setHires b).clockSpeed = s.clockSpeed := rfl
@[simp] theorem State.setHires_fault : (s.setHires b).fault = s.fault := rfl
@[simp] theorem State.setHires_acc : (s.setHires b).acc = s.acc := rfl
@[simp] theorem State.setHires_stackDepth : (s.setHires b).stackDepth = s.stackDepth := rfl
@[simp] theorem State.setHires_rndCount : (s.setHires b).rndCount = s.rndCount := rfl
@[simp] theorem State.setHires_hostCalls : (s.setHires b).hostCalls = s.hostCalls := rfl
end setHires

section setVram
variable (s : State) (p : List Bool)
@[simp] theorem State.setVram_v : (s.setVram p).v = s.v := rfl
@[simp] theorem State.setVram_i : (s.setVram p).i = s.i := rfl
@[simp] theorem State.setVram_pc : (s.setVram p).pc = s.pc := rfl
@[simp] theorem State.setVram_stack : (s.setVram p).stack = s.stack := rfl
@[simp] theorem State.setVram_dt : (s.setVram p).dt = s.dt := rfl
@[simp] theorem State.setVram_st : (s.setVram p).st = s.st := rfl
@[simp] theorem State.setVram_flags : (s.setVram p).flags = s.flags := rfl
@[simp] theorem State.setVram_running : (s.setVram p).running = s.running := rfl
@[simp] theorem State.setVram_hires : (s.setVram p).hires = s.hires := rfl
@[simp] theorem State.setVram_vram : (s.setVram p).vram = p := rfl
@[simp] theorem State.setVram_keys : (s.setVram p).keys = s.keys := rfl
@[simp] theorem State.setVram_mem : (s.setVram p).mem = s.mem := rfl
@[simp] theorem State.setVram_breakpoints : (s.setVram p).breakpoints = s.breakpoints := rfl
@[simp] theorem State.setVram_halted : (s.setVram p).halted = s.halted := rfl
@[simp] theorem State.setVram_quirks : (s.setVram p).quirks = s.quirks := rfl
@[simp] theorem State.setVram_clockSpeed : (s.setVram p).clockSpeed = s.clockSpeed := rfl
@[simp] theorem State.setVram_fault : (s.setVram p).fault = s.fault := rfl
@[simp] theorem State.setVram_acc : (s.setVram p).acc = s.acc := rfl
@[simp] theorem State.setVram_stackDepth : (s.setVram p).stackDepth = s.stackDepth := rfl
@[simp] theorem State.setVram_rndCount : (s.setVram p).rndCount = s.rndCount := rfl
@[simp] theorem State.setVram_hostCalls : (s.setVram p).hostCalls = s.hostCalls := rfl
end setVram

section setKey
variable (s : State) (k : Key) (b : Bool)
@[simp] theorem State.setKey_v : (s.setKey k b).v = s.v := rfl
@[simp] theorem State.setKey_i : (s.setKey k b).i = s.i := rfl
@[simp] theorem State.setKey_pc : (s.setKey k b).pc = s.pc := rfl
@[simp] theorem State.setKey_stack : (s.setKey k b).stack = s.stack := rfl
@[simp] theorem State.setKey_dt : (s.setKey k b).dt = s.dt := rfl
@[simp] theorem State.setKey_st : (s.setKey k b).st = s.st := rfl
@[simp] theorem State.setKey_flags : (s.setKey k b).flags = s.flags := rfl
@[simp] theorem State.setKey_running : (s.setKey k b).running = s.running := rfl
@[simp] theorem State.setKey_hires : (s.setKey k b).hires = s.hires := rfl
@[simp] theorem State.setKey_vram : (s.setKey k b).vram = s.vram := rfl
@[simp] theorem State.setKey_keys : (s.setKey k b).keys = s.keys.set k.val b k.isLt := rfl
@[simp] theorem State.setKey_mem : (s.setKey k b).mem = s.mem := rfl
@[simp] theorem State.setKey_breakpoints : (s.setKey k b).breakpoints = s.breakpoints := rfl
@[simp] theorem State.setKey_halted : (s.setKey k b).halted = s.halted := rfl
@[simp] theorem State.setKey_quirks : (s.setKey k b).quirks = s.quirks := rfl
@[simp] theorem State.setKey_clockSpeed : (s.setKey k b).clockSpeed = s.clockSpeed := rfl
@[simp] theorem State.setKey_fault : (s.setKey k b).fault = s.fault := rfl
@[simp] theorem State.setKey_acc : (s.setKey k b).acc = s.acc := rfl
@[simp] theorem State.setKey_stackDepth : (s.setKey k b).stackDepth = s.stackDepth := rfl
@[simp] theorem State.setKey_rndCount : (s.setKey k b).rndCount = s.rndCount := rfl
@[simp] theorem State.setKey_hostCalls : (s.setKey k b).hostCalls = s.hostCalls := rfl
end setKey

section setMem
variable (s : State) (m : List Host.Cell)
@[simp] theorem State.setMem_v : (s.setMem m).v = s.v := rfl
@[simp] theorem State.setMem_i : (s.setMem m).i = s.i := rfl
@[simp] theorem State.setMem_pc : (s.setMem m).pc = s.pc := rfl
@[simp] theorem State.setMem_stack : (s.setMem m).stack = s.stack := rfl
@[simp] theorem State.setMem_dt : (s.setMem m).dt = s.dt := rfl
@[simp] theorem State.setMem_st : (s.setMem m).st = s.st := rfl
@[simp] theorem State.setMem_flags : (s.setMem m).flags = s.flags := rfl
@[simp] theorem State.setMem_running : (s.setMem m).running = s.running := rfl
@[simp] theorem State.setMem_hires : (s.setMem m).hires = s.hires := rfl
@[simp] theorem State.setMem_vram : (s.setMem m).vram = s.vram := rfl
@[simp] theorem State.setMem_keys : (s.setMem m).keys = s.keys := rfl
@[simp] theorem State.setMem_mem : (s.setMem m).mem = m := rfl
@[simp] theorem State.setMem_breakpoints : (s.setMem m).breakpoints = s.breakpoints := rfl
@[simp] theorem State.setMem_halted : (s.setMem m).halted = s.halted := rfl
@[simp] theorem State.setMem_quirks : (s.setMem m).quirks = s.quirks := rfl
@[simp] theorem State.setMem_clockSpeed : (s.setMem m).clockSpeed = s.clockSpeed := rfl
@[simp] theorem State.setMem_fault : (s.setMem m).fault = s.fault := rfl
@[simp] theorem State.setMem_acc : (s.setMem m).acc = s.acc := rfl
@[simp] theorem State.setMem_stackDepth : (s.setMem m).stackDepth = s.stackDepth := rfl
@[simp] theorem State.setMem_rndCount : (s.setMem m).rndCount = s.rndCount := rfl
@[simp] theorem State.setMem_hostCalls : (s.setMem m).hostCalls = s.hostCalls := rfl
end setMem

section setBreakpoints
variable (s : State) (l : List Word)
@[simp] theorem State.setBreakpoints_v : (s.setBreakpoints l).v = s.v := rfl
@[simp] theorem State.setBreakpoints_i : (s.setBreakpoints l).i = s.i := rfl
@[simp] theorem State.setBreakpoints_pc : (s.setBreakpoints l).pc = s.pc := rfl
@[simp] theorem State.setBreakpoints_stack : (s.setBreakpoints l).stack = s.stack := rfl
@[simp] theorem State.setBreakpoints_dt : (s.setBreakpoints l).dt = s.dt := rfl
@[simp] theorem State.setBreakpoints_st : (s.setBreakpoints l).st = s.st := rfl
@[simp] theorem State.setBreakpoints_flags : (s.setBreakpoints l).flags = s.flags := rfl
@[simp] theorem State.setBreakpoints_running : (s.setBreakpoints l).running = s.running := rfl
@[simp] theorem State.setBreakpoints_hires : (s.setBreakpoints l).hires = s.hires := rfl
@[simp] theorem State.setBreakpoints_vram : (s.setBreakpoints l).vram = s.vram := rfl
@[simp] theorem State.setBreakpoints_keys : (s.setBreakpoints l).keys = s.keys := rfl
@[simp] theorem State.setBreakpoints_mem : (s.setBreakpoints l).mem = s.mem := rfl
@[simp] theorem State.setBreakpoints_breakpoints : (s.setBreakpoints l).breakpoints = l := rfl
@[simp] theorem State.setBreakpoints_halted : (s.setBreakpoints l).halted = s.halted := rfl
@[simp] theorem State.setBreakpoints_quirks : (s.setBreakpoints l).quirks = s.quirks := rfl
@[simp] theorem State.setBreakpoints_clockSpeed : (s.setBreakpoints l).clockSpeed = s.clockSpeed := rfl
@[simp] theorem State.setBreakpoints_fault : (s.setBreakpoints l).fault = s.fault := rfl
@[simp] theorem State.setBreakpoints_acc : (s.setBreakpoints l).acc = s.acc := rfl
@[simp] theorem State.setBreakpoints_stackDepth : (s.setBreakpoints l).stackDepth = s.stackDepth := rfl
@[simp] theorem State.setBreakpoints_rndCount : (s.setBreakpoints l).rndCount = s.rndCount := rfl
@[simp] theorem State.setBreakpoints_hostCalls : (s.setBreakpoints l).hostCalls = s.hostCalls := rfl
end setBreakpoints

section setHalted
variable (s : State) (b : Bool)
@[simp] theorem State.setHalted_v : (s.setHalted b).v = s.v := rfl
@[simp] theorem State.setHalted_i : (s.setHalted b).i = s.i := rfl
@[simp] theorem State.setHalted_pc : (s.setHalted b).pc = s.pc := rfl
@[simp] theorem State.setHalted_stack : (s.setHalted b).stack = s.stack := rfl
@[simp] theorem State.setHalted_dt : (s.setHalted b).dt = s.dt := rfl
@[simp] theorem State.setHalted_st : (s.setHalted b).st = s.st := rfl
@[simp] theorem State.setHalted_flags : (s.setHalted b).flags = s.flags := rfl
@[simp] theorem State.setHalted_running : (s.setHalted b).running = s.running := rfl
@[simp] theorem State.setHalted_hires : (s.setHalted b).hires = s.hires := rfl
@[simp] theorem State.setHalted_vram : (s.setHalted b).vram = s.vram := rfl
@[simp] theorem State.setHalted_keys : (s.setHalted b).keys = s.keys := rfl
@[simp] theorem State.setHalted_mem : (s.setHalted b).mem = s.mem := rfl
@[simp] theorem State.setHalted_breakpoints : (s.setHalted b).breakpoints = s.breakpoints := rfl
@[simp] theorem State.setHalted_halted : (s.setHalted b).halted = b := rfl
@[simp] theorem State.setHalted_quirks : (s.setHalted b).quirks = s.quirks := rfl
@[simp] theorem State.setHalted_clockSpeed : (s.setHalted b).clockSpeed = s.clockSpeed := rfl
@[simp] theorem State.setHalted_fault : (s.setHalted b).fault = s.fault := rfl
@[simp] theorem State.setHalted_acc : (s.setHalted b).acc = s.acc := rfl
@[simp] theorem State.setHalted_stackDepth : (s.setHalted b).stackDepth = s.stackDepth := rfl
@[simp] theorem State.setHalted_rndCount : (s.setHalted b).rndCount = s.rndCount := rfl
@[simp] theorem State.setHalted_hostCalls : (s.setHalted b).hostCalls = s.hostCalls := rfl
end setHalted

section setFault
variable (s : State) (f : Option Fault)
@[simp] theorem State.setFault_v : (s.setFault f).v = s.v := rfl
@[simp] theorem State.setFault_i : (s.setFault f).i = s.i := rfl
@[simp] theorem State.setFault_pc : (s.setFault f).pc = s.pc := rfl
@[simp] theorem State.setFault_stack : (s.setFault f).stack = s.stack := rfl
@[simp] theorem State.setFault_dt : (s.setFault f).dt = s.dt := rfl
@[simp] theorem State.setFault_st : (s.setFault f).st = s.st := rfl
@[simp] theorem State.setFault_flags : (s.setFault f).flags = s.flags := rfl
@[simp] theorem State.setFault_running : (s.setFault f).running = s.running := rfl
@[simp] theorem State.setFault_hires : (s.setFault f).hires = s.hires := rfl
@[simp] theorem State.setFault_vram : (s.setFault f).vram = s.vram := rfl
@[simp] theorem State.setFault_keys : (s.setFault f).keys = s.keys := rfl
@[simp] theorem State.setFault_mem : (s.setFault f).mem = s.mem := rfl
@[simp] theorem State.setFault_breakpoints : (s.setFault f).breakpoints = s.breakpoints := rfl
@[simp] theorem State.setFault_halted : (s.setFault f).halted = s.halted := rfl
@[simp] theorem State.setFault_quirks : (s.setFault f).quirks = s.quirks := rfl
@[simp] theorem State.setFault_clockSpeed : (s.setFault f).clockSpeed = s.clockSpeed := rfl
@[simp] theorem State.setFault_fault : (s.setFault f).fault = f := rfl
@[simp] theorem State.setFault_acc : (s.setFault f).acc = s.acc := rfl
@[simp] theorem State.setFault_stackDepth : (s.setFault f).stackDepth = s.stackDepth := rfl
@[simp] theorem State.setFault_rndCount : (s.setFault f).rndCount = s.rndCount := rfl
@[simp] theorem State.setFault_hostCalls : (s.setFault f).hostCalls = s.hostCalls := rfl
end setFault

section setAcc
variable (s : State) (a : Option Nat)
@[simp] theorem State.setAcc_v : (s.setAcc a).v = s.v := rfl
@[simp] theorem State.setAcc_i : (s.setAcc a).i = s.i := rfl
@[simp] theorem State.setAcc_pc : (s.setAcc a).pc = s.pc := rfl
@[simp] theorem State.setAcc_stack : (s.setAcc a).stack = s.stack := rfl
@[simp] theorem State.setAcc_dt : (s.setAcc a).dt = s.dt := rfl
@[simp] theorem State.setAcc_st : (s.setAcc a).st = s.st := rfl
@[simp] theorem State.setAcc_flags : (s.setAcc a).flags = s.flags := rfl
@[simp] theorem State.setAcc_running : (s.setAcc a).running = s.running := rfl
@[simp] theorem State.setAcc_hires : (s.setAcc a).hires = s.hires := rfl
@[simp] theorem State.setAcc_vram : (s.setAcc a).vram = s.vram := rfl
@[simp] theorem State.setAcc_keys : (s.setAcc a).keys = s.keys := rfl
@[simp] theorem State.setAcc_mem : (s.setAcc a).mem = s.mem := rfl
@[simp] theorem State.setAcc_breakpoints : (s.setAcc a).breakpoints = s.breakpoints := rfl
@[simp] theorem State.setAcc_halted : (s.setAcc a).halted = s.halted := rfl
@[simp] theorem State.setAcc_quirks : (s.setAcc a).quirks = s.quirks := rfl
@[simp] theorem State.setAcc_clockSpeed : (s.setAcc a).clockSpeed = s.clockSpeed := rfl
@[simp] theorem State.setAcc_fault : (s.setAcc a).fault = s.fault := rfl
@[simp] theorem State.setAcc_acc : (s.setAcc a).acc = a := rfl
@[simp] theorem State.setAcc_stackDepth : (s.setAcc a).stackDepth = s.stackDepth := rfl
@[simp] theorem State.setAcc_rndCount : (s.setAcc a).rndCount = s.rndCount := rfl
@[simp] theorem State.setAcc_hostCalls : (s.setAcc a).hostCalls = s.hostCalls := rfl
end setAcc

section setRndCount
variable (s : State) (n : Nat)
@[simp] theorem State.setRndCount_v : (s.setRndCount n).v = s.v := rfl
@[simp] theorem State.setRndCount_i : (s.setRndCount n).i = s.i := rfl
@[simp] theorem State.setRndCount_pc : (s.setRndCount n).pc = s.pc := rfl
@[simp] theorem State.setRndCount_stack : (s.setRndCount n).stack = s.stack := rfl
@[simp] theorem State.setRndCount_dt : (s.setRndCount n).dt = s.dt := rfl
@[simp] theorem State.setRndCount_st : (s.setRndCount n).st = s.st := rfl
@[simp] theorem State.setRndCount_flags : (s.setRndCount n).flags = s.flags := rfl
@[simp] theorem State.setRndCount_running : (s.setRndCount n).running = s.running := rfl
@[simp] theorem State.setRndCount_hires : (s.setRndCount n).hires = s.hires := rfl
@[simp] theorem State.setRndCount_vram : (s.setRndCount n).vram = s.vram := rfl
@[simp] theorem State.setRndCount_keys : (s.setRndCount n).keys = s.keys := rfl
@[simp] theorem State.setRndCount_mem : (s.setRndCount n).mem = s.mem := rfl
@[simp] theorem State.setRndCount_breakpoints : (s.setRndCount n).breakpoints = s.breakpoints := rfl
@[simp] theorem State.setRndCount_halted : (s.setRndCount n).halted = s.halted := rfl
@[simp] theorem State.setRndCount_quirks : (s.setRndCount n).quirks = s.quirks := rfl
@[simp] theorem State.setRndCount_clockSpeed : (s.setRndCount n).clockSpeed = s.clockSpeed := rfl
@[simp] theorem State.setRndCount_fault : (s.setRndCount n).fault = s.fault := rfl
@[simp] theorem State.setRndCount_acc : (s.setRndCount n).acc = s.acc := rfl
@[simp] theorem State.setRndCount_stackDepth : (s.setRndCount n).stackDepth = s.stackDepth := rfl
@[simp] theorem State.setRndCount_rndCount : (s.setRndCount n).rndCount = n := rfl
@[simp] theorem State.setRndCount_hostCalls : (s.setRndCount n).hostCalls = s.hostCalls := rfl
end setRndCount

section setHostCalls
variable (s : State) (l : List Transaction)
@[simp] theorem State.setHostCalls_v : (s.setHostCalls l).v = s.v := rfl
@[simp] theorem State.setHostCalls_i : (s.setHostCalls l).i = s.i := rfl
@[simp] theorem State.setHostCalls_pc : (s.setHostCalls l).pc = s.pc := rfl
@[simp] theorem State.setHostCalls_stack : (s.setHostCalls l).stack = s.stack := rfl
@[simp] theorem State.setHostCalls_dt : (s.setHostCalls l).dt = s.dt := rfl
@[simp] theorem State.setHostCalls_st : (s.setHostCalls l).st = s.st := rfl
@[simp] theorem State.setHostCalls_flags : (s.setHostCalls l).flags = s.flags := rfl
@[simp] theorem State.setHostCalls_running : (s.setHostCalls l).running = s.running := rfl
@[simp] theorem State.setHostCalls_hires : (s.setHostCalls l).hires = s.hires := rfl
@[simp] theorem State.setHostCalls_vram : (s.setHostCalls l).vram = s.vram := rfl
@[simp] theorem State.setHostCalls_keys : (s.setHostCalls l).keys = s.keys := rfl
@[simp] theorem State.setHostCalls_mem : (s.setHostCalls l).mem = s.mem := rfl
@[simp] theorem State.setHostCalls_breakpoints : (s.setHostCalls l).breakpoints = s.breakpoints := rfl
@[simp] theorem State.setHostCalls_halted : (s.setHostCalls l).halted = s.halted := rfl
@[simp] theorem State.setHostCalls_quirks : (s.setHostCalls l).quirks = s.quirks := rfl
@[simp] theorem State.setHostCalls_clockSpeed : (s.setHostCalls l).clockSpeed = s.clockSpeed := rfl
@[simp] theorem State.setHostCalls_fault : (s.setHostCalls l).fault = s.fault := rfl
@[simp] theorem State.setHostCalls_acc : (s.setHostCalls l).acc = s.acc := rfl
@[simp] theorem State.setHostCalls_stackDepth : (s.setHostCalls l).stackDepth = s.stackDepth := rfl
@[simp] theorem State.setHostCalls_rndCount : (s.setHostCalls l).rndCount = s.rndCount := rfl
@[simp] theorem State.setHostCalls_hostCalls : (s.setHostCalls l).hostCalls = l := rfl
end setHostCalls

section setClockSpeed
variable (s : State) (n : Nat)
@[simp] theorem State.setClockSpeed_v : (s.setClockSpeed n).v = s.v := rfl
@[simp] theorem State.setClockSpeed_i : (s.setClockSpeed n).i = s.i := rfl
@[simp] theorem State.setClockSpeed_pc : (s.setClockSpeed n).pc = s.pc := rfl
@[simp] theorem State.setClockSpeed_stack : (s.setClockSpeed n).stack = s.stack := rfl
@[simp] theorem State.setClockSpeed_dt : (s.setClockSpeed n).dt = s.dt := rfl
@[simp] theorem State.setClockSpeed_st : (s.setClockSpeed n).st = s.st := rfl
@[simp] theorem State.setClockSpeed_flags : (s.setClockSpeed n).flags = s.flags := rfl
@[simp] theorem State.setClockSpeed_running : (s.setClockSpeed n).running = s.running := rfl
@[simp] theorem State.setClockSpeed_hires : (s.setClockSpeed n).hires = s.hires := rfl
@[simp] theorem State.setClockSpeed_vram : (s.setClockSpeed n).vram = s.vram := rfl
@[simp] theorem State.setClockSpeed_keys : (s.setClockSpeed n).keys = s.keys := rfl
@[simp] theorem State.setClockSpeed_mem : (s.setClockSpeed n).mem = s.mem := rfl
@[simp] theorem State.setClockSpeed_breakpoints : (s.setClockSpeed n).breakpoints = s.breakpoints := rfl
@[simp] theorem State.setClockSpeed_halted : (s.setClockSpeed n).halted = s.halted := rfl
@[simp] theorem State.setClockSpeed_quirks : (s.setClockSpeed n).quirks = s.quirks := rfl
@[simp] theorem State.setClockSpeed_clockSpeed : (s.setClockSpeed n).clockSpeed = n := rfl
@[simp] theorem State.setClockSpeed_fault : (s.setClockSpeed n).fault = s.fault := rfl
@[simp] theorem State.setClockSpeed_acc : (s.setClockSpeed n).acc = s.acc := rfl
@[simp] theorem State.setClockSpeed_stackDepth : (s.setClockSpeed n).stackDepth = s.stackDepth := rfl
@[simp] theorem State.setClockSpeed_rndCount : (s.setClockSpeed n).rndCount = s.rndCount := rfl
@[simp] theorem State.setClockSpeed_hostCalls : (s.setClockSpeed n).hostCalls = s.hostCalls := rfl
end setClockSpeed

end Sys2Proof.Machine
end

