-- ==== Sys2Proof/Laws/Video.lean ====
section
/-! SUPPORT. The laws of the video buffer: its size, its pixels, and what plotting and drawing keep. -/

namespace Sys2Proof.Machine

/-! ### Building a buffer -/

theorem length_flatMap_rows (w : Nat) (f : Nat → Nat → Bool) (l : List Nat) :
    (l.flatMap fun y => (List.range w).map fun x => f x y).length = w * l.length := by
  induction l with
  | nil => simp
  | cons y rest ih => rw [List.flatMap_cons, List.length_append, ih]; simp [Nat.mul_add, Nat.add_comm]

/-- A built buffer has the size it was built for. -/
@[simp] theorem length_buildVram (w h : Nat) (f : Nat → Nat → Bool) : (buildVram w h f).length = w * h := by
  rw [buildVram, length_flatMap_rows, List.length_range]

@[simp] theorem length_blankVram (w h : Nat) : (blankVram w h).length = w * h := by simp [blankVram]

theorem getD_flatMap_rows (w x : Nat) (f : Nat → Nat → Bool) (hx : x < w) (l : List Nat) (k : Nat) (hk : k < l.length) :
    (l.flatMap fun y => (List.range w).map fun x => f x y).getD (k * w + x) false = f x l[k] := by
  induction l generalizing k with
  | nil => simp at hk
  | cons y rest ih =>
    rw [List.flatMap_cons]
    cases k with
    | zero =>
      rw [List.getD_append _ _ _ _ (by simpa using hx)]
      simp [hx]
    | succ k =>
      rw [List.getD_append_right _ _ _ _ (by simp [Nat.succ_mul]; omega)]
      have e : (k + 1) * w + x - ((List.range w).map fun x => f x y).length = k * w + x := by
        simp [Nat.succ_mul]; omega
      rw [e, ih k (by simpa using hk)]
      simp

/-- A pixel of a built buffer is the function it was built from. -/
theorem pixelAt_buildVram {w h x y : Nat} (f : Nat → Nat → Bool) (hx : x < w) (hy : y < h) :
    pixelAt (buildVram w h f) w x y = f x y := by
  rw [pixelAt, buildVram, getD_flatMap_rows w x f hx (List.range h) y (by simpa using hy), List.getElem_range]

@[simp] theorem pixelAt_blankVram (w h v x y : Nat) : pixelAt (blankVram w h) v x y = false := by
  simp only [pixelAt, blankVram, List.getD_eq_getElem?_getD, List.getElem?_replicate]
  split_ifs <;> rfl

/-! ### Plotting -/

/-- Two canvases of one size, with buffers of one length. -/
def Canvas.sameSize (c d : Canvas) : Prop :=
  d.w = c.w ∧ d.h = c.h ∧ d.wrap = c.wrap ∧ d.vram.length = c.vram.length

theorem Canvas.sameSize_refl (c : Canvas) : c.sameSize c := ⟨rfl, rfl, rfl, rfl⟩

theorem Canvas.sameSize_trans {c d e : Canvas} (h : c.sameSize d) (h' : d.sameSize e) : c.sameSize e :=
  ⟨h'.1.trans h.1, h'.2.1.trans h.2.1, h'.2.2.1.trans h.2.2.1, h'.2.2.2.trans h.2.2.2⟩

theorem Canvas.flip_sameSize (c : Canvas) (px py : Nat) : c.sameSize (c.flip px py) :=
  ⟨rfl, rfl, rfl, by simp [Canvas.flip]⟩

theorem Canvas.plot_sameSize (c : Canvas) (px py : Nat) : c.sameSize (c.plot px py) := by
  unfold Canvas.plot
  split_ifs
  · exact c.flip_sameSize _ _
  · exact c.sameSize_refl
  · exact c.flip_sameSize _ _

theorem Canvas.drawColumns_sameSize (c : Canvas) (bits width x0 y n k : Nat) :
    c.sameSize (c.drawColumns bits width x0 y n k) := by
  induction n generalizing c k with
  | zero => exact c.sameSize_refl
  | succ n ih =>
    rw [Canvas.drawColumns]
    refine Canvas.sameSize_trans ?_ (ih _ _)
    split_ifs
    · exact c.plot_sameSize _ _
    · exact c.sameSize_refl

theorem Canvas.drawRows8_sameSize (c : Canvas) (row : Nat → Byte) (x0 y0 n r : Nat) :
    c.sameSize (c.drawRows8 row x0 y0 n r) := by
  induction n generalizing c r with
  | zero => exact c.sameSize_refl
  | succ n ih =>
    rw [Canvas.drawRows8]
    exact Canvas.sameSize_trans (c.drawColumns_sameSize _ _ _ _ _ _) (ih _ _)

theorem Canvas.drawRow16_sameSize (c : Canvas) (bits x0 y : Nat) : c.sameSize (c.drawRow16 bits x0 y) := by
  unfold Canvas.drawRow16
  split_ifs
  · exact ⟨rfl, rfl, rfl, rfl⟩
  · exact c.drawColumns_sameSize _ _ _ _ _ _

theorem Canvas.drawRows16_sameSize (c : Canvas) (row : Nat → Nat) (x0 y0 n r : Nat) :
    c.sameSize (c.drawRows16 row x0 y0 n r) := by
  induction n generalizing c r with
  | zero => exact c.sameSize_refl
  | succ n ih =>
    rw [Canvas.drawRows16]
    exact Canvas.sameSize_trans (c.drawRow16_sameSize _ _ _) (ih _ _)

/-- A pixel after a flip, on a buffer that holds `w*h` pixels. -/
theorem Canvas.pixelAt_flip (c : Canvas) {px py x y : Nat} (hl : c.vram.length = c.w * c.h) (hpx : px < c.w)
    (hpy : py < c.h) (hx : x < c.w) :
    pixelAt (c.flip px py).vram c.w x y =
      if x = px ∧ y = py then !pixelAt c.vram c.w px py else pixelAt c.vram c.w x y := by
  have hin : py * c.w + px < c.vram.length := by
    rw [hl]
    calc py * c.w + px < py * c.w + c.w := by omega
      _ = (py + 1) * c.w := by ring
      _ ≤ c.h * c.w := Nat.mul_le_mul_right _ hpy
      _ = c.w * c.h := Nat.mul_comm _ _
  by_cases h : x = px ∧ y = py
  · obtain ⟨rfl, rfl⟩ := h
    simp only [pixelAt, Canvas.flip, and_self, if_true, List.getD_eq_getElem?_getD]
    rw [List.getElem?_set_self hin]
    rfl
  · rw [if_neg h]
    have hne : py * c.w + px ≠ y * c.w + x := by
      intro e
      have hm := congrArg (· % c.w) e
      simp only [Nat.mul_add_mod_self_right, Nat.mod_eq_of_lt hpx, Nat.mod_eq_of_lt hx] at hm
      subst hm
      have h2 : py * c.w = y * c.w := by omega
      exact h ⟨rfl, (Nat.eq_of_mul_eq_mul_right (by omega) h2).symm⟩
    simp only [pixelAt, Canvas.flip, List.getD_eq_getElem?_getD]
    rw [List.getElem?_set_ne hne]

theorem State.withCanvas_eq (s : State) (c : Canvas) : s.withCanvas c = (s.setVram c.vram).setV VF c.vf := rfl

end Sys2Proof.Machine
end

