-- ==== Sys2Proof/Laws/Draw.lean ====
section
/-! SUPPORT. What the plot and draw loops of 44_display.md section 4 do to a canvas, said once: the pixels flipped are those
where a set bit of the sprite lands, and `VF` tells whether one of them was set (R225, R226, R230). -/

namespace Sys2Proof.Machine

/-! ### What a draw does -/

/-- Where the unreduced position `(cx, cy)` lands on the canvas: reduced where sprites wrap, itself where they do not
(44_display.md R225). -/
def Canvas.lands (c : Canvas) (cx cy px py : Nat) : Prop :=
  if c.wrap then cx % c.w = px ∧ cy % c.h = py else cx = px ∧ cy = py

/-- `d` is `c` with the pixels `D` flipped, `VF` telling whether one of them was set, and `off` added to it. -/
structure Canvas.Drawn (c d : Canvas) (D : Nat → Nat → Prop) (off : Byte) : Prop where
  size : c.sameSize d
  flipped : ∀ px py, px < c.w → py < c.h → D px py → pixelAt d.vram c.w px py = !pixelAt c.vram c.w px py
  kept : ∀ px py, px < c.w → py < c.h → ¬ D px py → pixelAt d.vram c.w px py = pixelAt c.vram c.w px py
  hit : (∃ px py, px < c.w ∧ py < c.h ∧ D px py ∧ pixelAt c.vram c.w px py = true) → d.vf = 1 + off
  miss : (∀ px py, px < c.w → py < c.h → D px py → pixelAt c.vram c.w px py = false) → d.vf = c.vf + off

/-- A canvas that can be drawn on: a buffer of `w*h` pixels, at least as large as a sprite. -/
structure Canvas.Fits (c : Canvas) : Prop where
  pixels : c.vram.length = c.w * c.h
  wide : 16 ≤ c.w
  high : 16 ≤ c.h

theorem Canvas.Drawn.nothing (c : Canvas) : c.Drawn c (fun _ _ => False) 0 where
  size := c.sameSize_refl
  flipped := fun _ _ _ _ h => h.elim
  kept := fun _ _ _ _ _ => rfl
  hit := fun ⟨_, _, _, _, h, _⟩ => h.elim
  miss := fun _ => by simp

theorem Canvas.Drawn.congr {c d : Canvas} {D E : Nat → Nat → Prop} {off : Byte} (h : c.Drawn d D off)
    (he : ∀ px py, px < c.w → py < c.h → (E px py ↔ D px py)) : c.Drawn d E off where
  size := h.size
  flipped := fun px py hx hy hd => h.flipped px py hx hy ((he px py hx hy).1 hd)
  kept := fun px py hx hy hd => h.kept px py hx hy (fun e => hd ((he px py hx hy).2 e))
  hit := fun ⟨px, py, hx, hy, hd, hp⟩ => h.hit ⟨px, py, hx, hy, (he px py hx hy).1 hd, hp⟩
  miss := fun hm => h.miss fun px py hx hy hd => hm px py hx hy ((he px py hx hy).2 hd)

/-- Plotting a pixel not drawn before adds it. -/
theorem Canvas.Drawn.flip {c d : Canvas} {D : Nat → Nat → Prop} (h : c.Drawn d D 0) (hf : c.Fits) {px py : Nat}
    (hx : px < c.w) (hy : py < c.h) (hn : ¬ D px py) :
    c.Drawn (d.flip px py) (fun qx qy => D qx qy ∨ (px = qx ∧ py = qy)) 0 := by
  have hw : d.w = c.w := h.size.1
  have hh : d.h = c.h := h.size.2.1
  have hpix : ∀ qx qy, qx < c.w → pixelAt (d.flip px py).vram c.w qx qy =
      if qx = px ∧ qy = py then !pixelAt d.vram c.w px py else pixelAt d.vram c.w qx qy := by
    intro qx qy hq
    have := d.pixelAt_flip (px := px) (py := py) (x := qx) (y := qy) (by rw [hw, hh, h.size.2.2.2, hf.pixels]) (hw ▸ hx)
      (hh ▸ hy) (hw ▸ hq)
    rwa [hw] at this
  have hold : pixelAt d.vram c.w px py = pixelAt c.vram c.w px py := h.kept px py hx hy hn
  have hvf : (d.flip px py).vf = if pixelAt c.vram c.w px py then 1 else d.vf := by
    rw [← hold, ← hw]; rfl
  refine ⟨Canvas.sameSize_trans h.size (d.flip_sameSize px py), ?_, ?_, ?_, ?_⟩
  · rintro qx qy hqx hqy (hd | ⟨rfl, rfl⟩)
    · rw [hpix qx qy hqx, if_neg (by rintro ⟨rfl, rfl⟩; exact hn hd), h.flipped qx qy hqx hqy hd]
    · rw [hpix _ _ hqx, if_pos ⟨rfl, rfl⟩, hold]
  · intro qx qy hqx hqy hd
    rw [hpix qx qy hqx, if_neg (fun e => hd (.inr ⟨e.1.symm, e.2.symm⟩)), h.kept qx qy hqx hqy (fun e => hd (.inl e))]
  · rintro ⟨qx, qy, hqx, hqy, hd | ⟨rfl, rfl⟩, hp⟩ <;> rw [hvf]
    · split_ifs
      · rfl
      · exact h.hit ⟨qx, qy, hqx, hqy, hd, hp⟩
    · rw [hp]; rfl
  · intro hm
    rw [hvf, hm px py hx hy (.inr ⟨rfl, rfl⟩)]
    exact h.miss fun qx qy hqx hqy hd => hm qx qy hqx hqy (.inl hd)

theorem Canvas.Drawn.plot {c d : Canvas} {D : Nat → Nat → Prop} (h : c.Drawn d D 0) (hf : c.Fits) (cx cy : Nat)
    (hn : ∀ qx qy, c.lands cx cy qx qy → ¬ D qx qy) :
    c.Drawn (d.plot cx cy) (fun qx qy => D qx qy ∨ c.lands cx cy qx qy) 0 := by
  have hw := hf.wide
  have hh := hf.high
  have e1 : d.w = c.w := h.size.1
  have e2 : d.h = c.h := h.size.2.1
  have e3 : d.wrap = c.wrap := h.size.2.2.1
  unfold Canvas.plot
  rw [e1, e2, e3]
  split_ifs with h1 h2
  · refine (h.flip hf (Nat.mod_lt _ (by omega)) (Nat.mod_lt _ (by omega)) (hn _ _ ?_)).congr ?_
    · simp [Canvas.lands, h1]
    · intro px py _ _; simp [Canvas.lands, h1]
  · refine h.congr fun px py hx hy => ?_
    simp only [Canvas.lands, h1]
    constructor
    · rintro (h | h)
      · exact h
      · simp at h; omega
    · exact .inl
  · refine (h.flip hf (by omega) (by omega) (hn _ _ ?_)).congr ?_
    · simp [Canvas.lands, h1]
    · intro px py _ _; simp [Canvas.lands, h1]

/-- Two columns of a sprite never land on one pixel. -/
theorem Canvas.lands_col {c : Canvas} (hf : c.Fits) {x0 j k y y' px py : Nat} (hj : j < 16) (hk : k < 16)
    (h : c.lands (x0 + j) y px py) (h' : c.lands (x0 + k) y' px py) : j = k := by
  have hw := hf.wide
  unfold Canvas.lands at h h'
  split_ifs at h h'
  · have e : (x0 + j) % c.w = (x0 + k) % c.w := h.1.trans h'.1.symm
    have h2 : j % c.w = k % c.w := Nat.ModEq.add_left_cancel' x0 e
    rwa [Nat.mod_eq_of_lt (by omega), Nat.mod_eq_of_lt (by omega)] at h2
  · omega

/-- Two rows of a sprite never land on one pixel. -/
theorem Canvas.lands_row {c : Canvas} (hf : c.Fits) {y0 j k x x' px py : Nat} (hj : j < 16) (hk : k < 16)
    (h : c.lands x (y0 + j) px py) (h' : c.lands x' (y0 + k) px py) : j = k := by
  have hw := hf.high
  unfold Canvas.lands at h h'
  split_ifs at h h'
  · have e : (y0 + j) % c.h = (y0 + k) % c.h := h.2.trans h'.2.symm
    have h2 : j % c.h = k % c.h := Nat.ModEq.add_left_cancel' y0 e
    rwa [Nat.mod_eq_of_lt (by omega), Nat.mod_eq_of_lt (by omega)] at h2
  · omega

/-- One row of a sprite adds the pixels its set bits land on. -/
theorem Canvas.Drawn.columns {c d : Canvas} {D : Nat → Nat → Prop} (h : c.Drawn d D 0) (hf : c.Fits) (bits width x0 y n k : Nat)
    (hk : k + n ≤ 16) (hn : ∀ j, k ≤ j → j < k + n → ∀ qx qy, c.lands (x0 + j) y qx qy → ¬ D qx qy) :
    c.Drawn (d.drawColumns bits width x0 y n k)
      (fun qx qy => D qx qy ∨ ∃ j, k ≤ j ∧ j < k + n ∧ bits.testBit (width - 1 - j) = true ∧ c.lands (x0 + j) y qx qy) 0 := by
  induction n generalizing d D k with
  | zero => exact h.congr fun px py _ _ => ⟨fun e => e.elim id (fun ⟨j, h1, h2, _⟩ => by omega), .inl⟩
  | succ n ih =>
    rw [Canvas.drawColumns]
    have step : c.Drawn (if bits.testBit (width - 1 - k) then d.plot (x0 + k) y else d)
        (fun qx qy => D qx qy ∨ (bits.testBit (width - 1 - k) = true ∧ c.lands (x0 + k) y qx qy)) 0 := by
      split_ifs with hb
      · exact (h.plot hf _ _ (hn k le_rfl (by omega))).congr fun px py _ _ => by rw [hb]; simp only [true_and]
      · exact h.congr fun px py _ _ => by simp only [hb]; simp
    refine (ih step (k + 1) (by omega) ?_).congr ?_
    · rintro j h1 h2 qx qy hl (hd | ⟨_, hd⟩)
      · exact hn j (by omega) (by omega) qx qy hl hd
      · have := c.lands_col hf (by omega) (by omega) hl hd; omega
    · intro px py _ _
      constructor
      · rintro (hd | ⟨j, h1, h2, hb, hl⟩)
        · exact .inl (.inl hd)
        · rcases Nat.eq_or_lt_of_le h1 with rfl | h1
          · exact .inl (.inr ⟨hb, hl⟩)
          · exact .inr ⟨j, h1, by omega, hb, hl⟩
      · rintro ((hd | ⟨hb, hl⟩) | ⟨j, h1, h2, hb, hl⟩)
        · exact .inl hd
        · exact .inr ⟨k, le_rfl, by omega, hb, hl⟩
        · exact .inr ⟨j, by omega, by omega, hb, hl⟩

/-- The rows `r .. r+n-1` of an 8-pixel-wide sprite add the pixels their set bits land on. -/
theorem Canvas.Drawn.rows8 {c d : Canvas} {D : Nat → Nat → Prop} (h : c.Drawn d D 0) (hf : c.Fits) (row : Nat → Byte)
    (x0 y0 n r : Nat) (hr : r + n ≤ 16)
    (hn : ∀ i, r ≤ i → i < r + n → ∀ cx qx qy, c.lands cx (y0 + i) qx qy → ¬ D qx qy) :
    c.Drawn (d.drawRows8 row x0 y0 n r)
      (fun qx qy => D qx qy ∨ ∃ i j, r ≤ i ∧ i < r + n ∧ j < 8 ∧ (row i).toNat.testBit (7 - j) = true ∧
        c.lands (x0 + j) (y0 + i) qx qy) 0 := by
  induction n generalizing d D r with
  | zero => exact h.congr fun px py _ _ => ⟨fun e => e.elim id (fun ⟨i, j, h1, h2, _⟩ => by omega), .inl⟩
  | succ n ih =>
    rw [Canvas.drawRows8]
    have step := h.columns hf (row r).toNat 8 x0 (y0 + r) 8 0 (by omega) (fun j _ _ => hn r le_rfl (by omega) (x0 + j))
    refine (ih step (r + 1) (by omega) ?_).congr ?_
    · rintro i h1 h2 cx qx qy hl (hd | ⟨j, _, _, _, hd⟩)
      · exact hn i (by omega) (by omega) cx qx qy hl hd
      · have := c.lands_row hf (by omega) (by omega) hl hd; omega
    · intro px py _ _
      constructor
      · rintro (hd | ⟨i, j, h1, h2, hj, hb, hl⟩)
        · exact .inl (.inl hd)
        · rcases Nat.eq_or_lt_of_le h1 with rfl | h1
          · exact .inl (.inr ⟨j, by omega, by omega, hb, hl⟩)
          · exact .inr ⟨i, j, h1, by omega, hj, hb, hl⟩
      · rintro ((hd | ⟨j, _, hj, hb, hl⟩) | ⟨i, j, h1, h2, hj, hb, hl⟩)
        · exact .inl hd
        · exact .inr ⟨r, j, le_rfl, by omega, by omega, hb, hl⟩
        · exact .inr ⟨i, j, by omega, by omega, hj, hb, hl⟩

/-- Rows before row `r` that are off the bottom edge of a canvas that does not wrap. -/
def Canvas.rowsOff (c : Canvas) (y0 r : Nat) : Nat := if c.wrap then 0 else y0 + r - c.h

/-- The rows `r .. r+n-1` of a 16x16 sprite add the pixels their set bits land on, and count the rows off the bottom. -/
theorem Canvas.Drawn.rows16 {c d : Canvas} {D : Nat → Nat → Prop} (hf : c.Fits) (row : Nat → Nat) (x0 y0 n r : Nat)
    (h : c.Drawn d D (BitVec.ofNat 8 (c.rowsOff y0 r))) (hr : r + n ≤ 16)
    (hn : ∀ i, r ≤ i → i < r + n → ∀ cx qx qy, c.lands cx (y0 + i) qx qy → ¬ D qx qy) :
    c.Drawn (d.drawRows16 row x0 y0 n r)
      (fun qx qy => D qx qy ∨ ∃ i j, r ≤ i ∧ i < r + n ∧ j < 16 ∧ (row i).testBit (15 - j) = true ∧
        c.lands (x0 + j) (y0 + i) qx qy) (BitVec.ofNat 8 (c.rowsOff y0 (r + n))) := by
  induction n generalizing d D r with
  | zero => exact h.congr fun px py _ _ => ⟨fun e => e.elim id (fun ⟨i, j, h1, h2, _⟩ => by omega), .inl⟩
  | succ n ih =>
    rw [Canvas.drawRows16]
    have step : c.Drawn (d.drawRow16 (row r) x0 (y0 + r))
        (fun qx qy => D qx qy ∨ ∃ j, 0 ≤ j ∧ j < 0 + 16 ∧ (row r).testBit (15 - j) = true ∧ c.lands (x0 + j) (y0 + r) qx qy)
        (BitVec.ofNat 8 (c.rowsOff y0 (r + 1))) := by
      unfold Canvas.drawRow16
      rw [h.size.2.1, h.size.2.2.1]
      split_ifs with hoff
      · simp only [Bool.and_eq_true, Bool.not_eq_true', decide_eq_true_eq] at hoff
        have hadd : BitVec.ofNat 8 (c.rowsOff y0 (r + 1)) = BitVec.ofNat 8 (c.rowsOff y0 r) + 1 := by
          have : c.rowsOff y0 (r + 1) = c.rowsOff y0 r + 1 := by simp only [Canvas.rowsOff, hoff.1]; simp; omega
          rw [this, BitVec.ofNat_add]; rfl
        refine Canvas.Drawn.congr (D := D) ⟨⟨h.size.1, rfl, rfl, h.size.2.2.2⟩, h.flipped, h.kept, fun hh => ?_, fun hm => ?_⟩ ?_
        · show d.vf + 1 = _; rw [h.hit hh, hadd, BitVec.add_assoc]
        · show d.vf + 1 = _; rw [h.miss hm, hadd, BitVec.add_assoc]
        · intro px py _ hpy
          refine ⟨fun e => e.elim id ?_, .inl⟩
          rintro ⟨j, _, _, _, hl⟩
          simp only [Canvas.lands, hoff.1] at hl
          simp at hl
          omega
      · have hz : ∀ k, k ≤ r + 1 → c.rowsOff y0 k = 0 := by
          intro k hk
          unfold Canvas.rowsOff
          split_ifs with hw
          · rfl
          · simp only [hw, Bool.and_eq_true, decide_eq_true_eq] at hoff
            simp at hoff
            omega
        rw [hz _ le_rfl]
        rw [hz r (by omega)] at h
        exact h.columns hf _ 16 x0 (y0 + r) 16 0 (by omega) (fun j _ _ => hn r le_rfl (by omega) (x0 + j))
    have := ih (r + 1) step (by omega) ?_
    · rw [show r + 1 + n = r + (n + 1) by omega] at this
      refine this.congr ?_
      intro px py _ _
      constructor
      · rintro (hd | ⟨i, j, h1, h2, hj, hb, hl⟩)
        · exact .inl (.inl hd)
        · rcases Nat.eq_or_lt_of_le h1 with rfl | h1
          · exact .inl (.inr ⟨j, by omega, by omega, hb, hl⟩)
          · exact .inr ⟨i, j, h1, by omega, hj, hb, hl⟩
      · rintro ((hd | ⟨j, _, hj, hb, hl⟩) | ⟨i, j, h1, h2, hj, hb, hl⟩)
        · exact .inl hd
        · exact .inr ⟨r, j, le_rfl, by omega, by omega, hb, hl⟩
        · exact .inr ⟨i, j, by omega, by omega, hj, hb, hl⟩
    · rintro i h1 h2 cx qx qy hl (hd | ⟨j, _, _, _, hd⟩)
      · exact hn i (by omega) (by omega) cx qx qy hl hd
      · have := c.lands_row hf (by omega) (by omega) hl hd; omega

end Sys2Proof.Machine
end

