-- ==== Sys2Proof/Laws/Memory.lean ====
section
/-! SUPPORT. The laws of memory: read after write, the canonical form kept by every write, and runs of bytes. -/

namespace Sys2Proof.Machine

/-! ### The list of cells -/

theorem Memory.read_of_wfFrom_lt {m : List Host.Cell} {lo a : Nat} (h : Memory.wfFrom lo m = true) (ha : a < lo) :
    Memory.read m a = unlistedByte a := by
  induction m generalizing lo with
  | nil => rfl
  | cons e rest ih =>
    obtain ⟨k, b⟩ := e
    simp only [Memory.wfFrom, Bool.and_eq_true, decide_eq_true_eq] at h
    rw [Memory.read, if_neg (by omega)]
    exact ih h.2 (by omega)

theorem Memory.wfFrom_mono {m : List Host.Cell} {lo lo' : Nat} (h : Memory.wfFrom lo m = true) (hl : lo' ≤ lo) :
    Memory.wfFrom lo' m = true := by
  cases m with
  | nil => rfl
  | cons e rest =>
    obtain ⟨k, b⟩ := e
    simp only [Memory.wfFrom, Bool.and_eq_true, decide_eq_true_eq] at h ⊢
    exact ⟨⟨⟨by omega, h.1.1.2⟩, h.1.2⟩, h.2⟩

theorem Memory.write_wfFrom {m : List Host.Cell} {lo a : Nat} (b : Byte) (h : Memory.wfFrom lo m = true) (hl : lo ≤ a)
    (ha : a < memSize) : Memory.wfFrom lo (Memory.write m a b) = true := by
  induction m generalizing lo with
  | nil => by_cases hb : b = unlistedByte a <;> simp [Memory.write, Memory.wfFrom, hb, hl, ha]
  | cons e rest ih =>
    obtain ⟨k, c⟩ := e
    have h0 := h
    simp only [Memory.wfFrom, Bool.and_eq_true, decide_eq_true_eq] at h
    obtain ⟨⟨⟨h1, h2⟩, h3⟩, h4⟩ := h
    unfold Memory.write
    split_ifs with hk he hb hb
    · simp [Memory.wfFrom, h1, h2, h3, ih h4 (by omega)]
    · exact Memory.wfFrom_mono h4 (by omega)
    · subst he
      simp [Memory.wfFrom, h1, h2, hb, h4]
    · exact h0
    · have h5 : a + 1 ≤ k := by omega
      simp [Memory.wfFrom, hl, ha, hb, h2, h3, h4, h5]

/-- Every write keeps the canonical form. -/
theorem Memory.write_wf {m : List Host.Cell} {a : Nat} (b : Byte) (h : Memory.wf m = true) (ha : a < memSize) :
    Memory.wf (Memory.write m a b) = true := Memory.write_wfFrom b h (Nat.zero_le a) ha

/-- A byte reads back as it was written. -/
theorem Memory.read_write_same {m : List Host.Cell} {lo : Nat} (a : Nat) (b : Byte) (h : Memory.wfFrom lo m = true) :
    Memory.read (Memory.write m a b) a = b := by
  induction m generalizing lo with
  | nil =>
    by_cases hb : b = unlistedByte a
    · subst hb
      simp [Memory.write, Memory.read]
    · simp only [Memory.write, if_neg hb, Memory.read, if_true]
  | cons e rest ih =>
    obtain ⟨k, d⟩ := e
    simp only [Memory.wfFrom, Bool.and_eq_true, decide_eq_true_eq] at h
    unfold Memory.write
    split_ifs with hk he hb hb
    · rw [Memory.read, if_neg (by omega)]
      exact ih h.2
    · rw [Memory.read_of_wfFrom_lt h.2 (by omega), hb]
    · rw [Memory.read, if_pos rfl]
    · rw [Memory.read, if_neg he, Memory.read_of_wfFrom_lt h.2 (by omega), hb]
    · rw [Memory.read, if_pos rfl]

/-- A write leaves every other address alone. -/
theorem Memory.read_write_other (m : List Host.Cell) {a c : Nat} (b : Byte) (hc : c ≠ a) :
    Memory.read (Memory.write m a b) c = Memory.read m c := by
  induction m with
  | nil => by_cases hb : b = unlistedByte a <;> simp [Memory.write, Memory.read, hb, hc.symm]
  | cons e rest ih =>
    obtain ⟨k, d⟩ := e
    unfold Memory.write
    split_ifs with hk he hb hb
    · simp only [Memory.read, ih]
    · simp only [Memory.read, if_neg (show k ≠ c by omega)]
    · simp only [Memory.read, if_neg hc.symm, if_neg (show k ≠ c by omega)]
    · rfl
    · rw [Memory.read, if_neg hc.symm]

/-! ### Bytes of the state -/

theorem mod_memSize_lt (a : Nat) : a % memSize < memSize := Nat.mod_lt _ (by decide)

@[simp] theorem State.writeByte_eq (s : State) (a : Nat) (b : Byte) :
    s.writeByte a b = s.setMem (Memory.write s.mem (a % memSize) b) := rfl

/-- `MemRead` after `MemWrite` (20_memory.md R61, R71). -/
theorem State.readByte_writeByte (s : State) (a c : Nat) (b : Byte) (h : Memory.wf s.mem = true) :
    (s.writeByte a b).readByte c = if c % memSize = a % memSize then b else s.readByte c := by
  split_ifs with hc
  · simp only [State.readByte, State.writeByte_eq, State.setMem_mem, hc]
    exact Memory.read_write_same _ b h
  · exact Memory.read_write_other s.mem b hc

/-- A run of writes changes memory only. -/
@[simp] theorem State.writeRun_eq (s : State) (a : Nat) (bs : List Byte) :
    s.writeRun a bs = s.setMem (Memory.writeRun s.mem a bs) := rfl

theorem Memory.writeRun_wf {m : List Host.Cell} (a : Nat) (bs : List Byte) (h : Memory.wf m = true) :
    Memory.wf (Memory.writeRun m a bs) = true := by
  induction bs generalizing m a with
  | nil => exact h
  | cons b rest ih => exact ih _ (Memory.write_wf b h (mod_memSize_lt a))

theorem Memory.read_writeRun_outside (m : List Host.Cell) (a : Nat) (bs : List Byte) (c : Nat)
    (hc : ∀ k < bs.length, c ≠ (a + k) % memSize) : Memory.read (Memory.writeRun m a bs) c = Memory.read m c := by
  induction bs generalizing m a with
  | nil => rfl
  | cons b rest ih =>
    rw [Memory.writeRun, ih]
    · exact Memory.read_write_other m b (by simpa using hc 0 (by simp))
    · intro k hk
      have := hc (k + 1) (by simpa using hk)
      rwa [show a + 1 + k = a + (k + 1) by omega]

theorem Memory.read_writeRun_inside {m : List Host.Cell} (a : Nat) (bs : List Byte) (k : Nat) (h : Memory.wf m = true)
    (hk : k < bs.length) (hl : bs.length ≤ memSize) :
    Memory.read (Memory.writeRun m a bs) ((a + k) % memSize) = bs.getD k 0 := by
  induction bs generalizing m a k with
  | nil => simp at hk
  | cons b rest ih =>
    rw [Memory.writeRun]
    have hl' : rest.length + 1 ≤ memSize := by simpa using hl
    cases k with
    | zero =>
      rw [Memory.read_writeRun_outside, Nat.add_zero, Memory.read_write_same _ b h]
      · simp
      · intro j hj
        simp only [memSize] at *
        omega
    | succ k =>
      have := ih (m := Memory.write m (a % memSize) b) (a + 1) k (Memory.write_wf b h (mod_memSize_lt a)) (by simpa using hk)
        (by omega)
      rw [show a + (k + 1) = a + 1 + k by omega, this]
      simp

/-- A run leaves every byte outside it alone (20_memory.md R62). -/
theorem State.readByte_writeRun_outside (s : State) (a : Nat) (bs : List Byte) (c : Nat)
    (hc : ∀ k < bs.length, c % memSize ≠ (a + k) % memSize) : (s.writeRun a bs).readByte c = s.readByte c :=
  Memory.read_writeRun_outside s.mem a bs _ hc

/-- A run no longer than memory reads back byte by byte (20_memory.md R62). -/
theorem State.readByte_writeRun_inside (s : State) (a : Nat) (bs : List Byte) (k : Nat) (h : Memory.wf s.mem = true)
    (hk : k < bs.length) (hl : bs.length ≤ memSize) : (s.writeRun a bs).readByte (a + k) = bs.getD k 0 :=
  Memory.read_writeRun_inside a bs k h hk hl

end Sys2Proof.Machine
end

