-- ==== Sys2Proof/Laws/Ops.lean ====
section
/-! SUPPORT. What each shared operation over registers, `pc`, the stack, `I`, the breakpoint set and the tick can do, said
once: an equation that puts it in terms of the updates of one piece of state, and its effect on what it writes. -/

namespace Sys2Proof.Machine

/-! ### Registers -/

/-- Reading a register after writing one. -/
theorem State.reg_setV (s : State) (x r : Reg) (b : Byte) : (s.setV x b).reg r = if r = x then b else s.reg r := by
  simp only [State.reg, State.setV, Fin.getElem_fin, Vector.getElem_set, Fin.ext_iff, eq_comm]

/-- Reading a register after a result and a flag were written: the flag wins (10_state.md R22). -/
theorem State.reg_setResultFlag (s : State) (x r : Reg) (b f : Byte) :
    (s.setResultFlag x b f).reg r = if r = VF then f else if r = x then b else s.reg r := by
  simp only [State.setResultFlag, State.reg_setV]

theorem State.setResultFlag_eq (s : State) (x : Reg) (b f : Byte) :
    s.setResultFlag x b f =
      s.setRegs ((s.v.set x.val b x.isLt).set VF.val f VF.isLt) := rfl

theorem State.reg_setLogic (s : State) (x r : Reg) (b : Byte) :
    (s.setLogic x b).reg r = if r = VF ∧ s.quirks.vfReset = true then 0 else if r = x then b else s.reg r := by
  unfold State.setLogic
  split_ifs <;> simp_all [State.reg_setResultFlag, State.reg_setV]

theorem State.setLogic_eq (s : State) (x : Reg) (b : Byte) :
    s.setLogic x b = s.setRegs
      (if s.quirks.vfReset then (s.v.set x.val b x.isLt).set VF.val 0 VF.isLt else s.v.set x.val b x.isLt) := by
  unfold State.setLogic
  split_ifs <;> rfl

theorem State.addIndex_eq (s : State) (clear : Bool) (a : Byte) :
    s.addIndex clear a = (s.setI (s.maskedIndex a.toNat)).setRegs
      (s.v.set VF.val (indexOverflowFlag clear (s.i.toNat + a.toNat) (s.reg VF)) VF.isLt) := rfl

theorem State.reg_addIndex (s : State) (clear : Bool) (a : Byte) (r : Reg) :
    (s.addIndex clear a).reg r =
      if r = VF then indexOverflowFlag clear (s.i.toNat + a.toNat) (s.reg VF) else s.reg r := by
  simp only [State.addIndex, State.reg_setV]
  rfl

/-! ### Copying a run -/

/-- Entry `k` after a copy of `n` bytes. -/
theorem getD_copyRun {m : Nat} (f : Nat → Byte) (n k : Nat) (dst : Vector Byte m) (hk : k < m) :
    (copyRun f n dst)[k] = if k < n then f k else dst[k] := by
  induction n with
  | zero => simp [copyRun]
  | succ n ih =>
    rw [copyRun, Vector.getElem_setIfInBounds, ih]
    by_cases h : n = k
    · subst h; simp
    · rw [if_neg h]
      by_cases h2 : k < n
      · rw [if_pos h2, if_pos (by omega)]
      · rw [if_neg h2, if_neg (by omega)]

/-! ### `pc`, skips, `I` -/

@[simp] theorem State.advancePc_eq (s : State) : s.advancePc = s.setPc (s.pc + 2) := rfl

@[simp] theorem State.raise_eq (s : State) (f : Fault) (a : Word) : s.raise f a = (s.setPc a).setFault (some f) := rfl

theorem State.skipIf_eq (s : State) (c : Bool) : s.skipIf c = s.setPc (if c then s.pc + 2 else s.pc) := by
  cases c <;> rfl

@[simp] theorem State.pc0_advancePc (s : State) : s.advancePc.pc0 = s.pc := by
  simp [State.pc0]

theorem State.postAdvanceIndex_eq (s : State) (x : Reg) :
    s.postAdvanceIndex x = s.setI (if s.quirks.memory then s.maskedIndex (x.val + 1) else s.i) := by
  unfold State.postAdvanceIndex
  split_ifs <;> rfl

/-- Every masked index is 12 bits (10_state.md R23). -/
theorem State.maskedIndex_le (s : State) (d : Nat) : (s.maskedIndex d).toNat ≤ 0x0FFF := by
  simp only [State.maskedIndex, BitVec.toNat_ofNat]
  omega

theorem State.setVram_self (s : State) : s.setVram s.vram = s := rfl

/-! ### The breakpoint set -/

theorem breakpointsWfFrom_mono {l : List Word} {lo lo' : Nat} (h : breakpointsWfFrom lo l = true) (hl : lo' ≤ lo) :
    breakpointsWfFrom lo' l = true := by
  cases l with
  | nil => rfl
  | cons b rest =>
    simp only [breakpointsWfFrom, Bool.and_eq_true, decide_eq_true_eq] at h ⊢
    exact ⟨by omega, h.2⟩

theorem breakpointsInsert_wfFrom {l : List Word} {lo : Nat} {a : Word} (h : breakpointsWfFrom lo l = true)
    (ha : lo ≤ a.toNat) : breakpointsWfFrom lo (breakpointsInsert l a) = true := by
  induction l generalizing lo with
  | nil => simp [breakpointsInsert, breakpointsWfFrom, ha]
  | cons b rest ih =>
    have h0 := h
    simp only [breakpointsWfFrom, Bool.and_eq_true, decide_eq_true_eq] at h
    unfold breakpointsInsert
    split_ifs with hlt he
    · have h3 : a.toNat + 1 ≤ b.toNat := by omega
      simp [breakpointsWfFrom, ha, h.2, h3]
    · exact h0
    · have hne : b.toNat ≠ a.toNat := fun e => he (BitVec.eq_of_toNat_eq e.symm)
      simp [breakpointsWfFrom, h.1, ih h.2 (by omega)]

/-- Adding a breakpoint keeps the set canonical. -/
theorem breakpointsInsert_wf {l : List Word} (a : Word) (h : breakpointsWf l = true) :
    breakpointsWf (breakpointsInsert l a) = true := breakpointsInsert_wfFrom h (Nat.zero_le _)

theorem breakpointsErase_wfFrom {l : List Word} {lo : Nat} (a : Word) (h : breakpointsWfFrom lo l = true) :
    breakpointsWfFrom lo (breakpointsErase l a) = true := by
  induction l generalizing lo with
  | nil => rfl
  | cons b rest ih =>
    simp only [breakpointsWfFrom, Bool.and_eq_true, decide_eq_true_eq] at h
    unfold breakpointsErase
    split_ifs
    · exact breakpointsWfFrom_mono (ih h.2) (by omega)
    · simp [breakpointsWfFrom, h.1, ih h.2]

/-- Removing a breakpoint keeps the set canonical. -/
theorem breakpointsErase_wf {l : List Word} (a : Word) (h : breakpointsWf l = true) :
    breakpointsWf (breakpointsErase l a) = true := breakpointsErase_wfFrom a h

theorem mem_breakpointsInsert (l : List Word) (a b : Word) : b ∈ breakpointsInsert l a ↔ b = a ∨ b ∈ l := by
  induction l with
  | nil => simp [breakpointsInsert]
  | cons c rest ih =>
    unfold breakpointsInsert
    split_ifs with h1 h2
    · simp
    · subst h2; simp
    · simp only [List.mem_cons, ih]; tauto

theorem mem_breakpointsErase (l : List Word) (a b : Word) : b ∈ breakpointsErase l a ↔ b ≠ a ∧ b ∈ l := by
  induction l with
  | nil => simp [breakpointsErase]
  | cons c rest ih =>
    unfold breakpointsErase
    split_ifs with h1
    · subst h1; rw [ih]; simp only [List.mem_cons]; tauto
    · simp only [List.mem_cons, ih]
      constructor
      · rintro (rfl | h)
        · exact ⟨fun e => h1 e.symm, .inl rfl⟩
        · exact ⟨h.1, .inr h.2⟩
      · rintro ⟨h, rfl | h3⟩
        · exact .inl rfl
        · exact .inr ⟨h, h3⟩

/-! ### The tick -/

theorem State.tickTimers_eq (s : State) : s.tickTimers = (s.setDt (timerDown s.dt)).setSt (timerDown s.st) := rfl

/-- All that a tick can do to a state after a step: the four ends of 60_exceptions.md R258. -/
theorem State.afterStep_cases (s : State) (a : Nat) :
    (s.fault.isSome = true ∧ s.afterStep a = s.setAcc none) ∨
    (s.fault = none ∧ s.breakpoints.contains s.pc = true ∧ s.afterStep a = (s.setHalted true).setAcc none) ∨
    (s.fault = none ∧ s.breakpoints.contains s.pc = false ∧ (s.running = false ∨ s.budget ≤ a) ∧
      s.afterStep a = s.tickTimers.setAcc none) ∨
    (s.fault = none ∧ s.breakpoints.contains s.pc = false ∧ s.running = true ∧ a < s.budget ∧
      s.afterStep a = s.setAcc (some a)) := by
  unfold State.afterStep
  split_ifs with h1 h2 h3
  · exact .inl ⟨h1, rfl⟩
  · exact .inr (.inl ⟨by simpa using h1, h2, rfl⟩)
  · exact .inr (.inr (.inl ⟨by simpa using h1, by simpa using h2, by simpa using h3, rfl⟩))
  · simp only [Bool.or_eq_true, Bool.not_eq_true', decide_eq_true_eq, not_or, Bool.not_eq_false, not_le] at h3
    exact .inr (.inr (.inr ⟨by simpa using h1, by simpa using h2, h3.1, h3.2, rfl⟩))

end Sys2Proof.Machine
end

