-- ==== Sys2Proof/Laws/PerInstr.lean ====
section
/-! SUPPORT. The families of LAWS.json: one statement about an instruction as syntax, one lemma per constructor. -/

namespace Sys2Proof.Laws.RoundTrip

/-- A well-formed instruction is the parse of its own encoding (30_encoding.md R98). -/
def Statement (i : Instr) : Prop := i.wellFormed = true → parse (encode i) = .ok i

theorem cls : Statement .cls := fun _ => by decide

theorem ret : Statement .ret := fun _ => by decide

theorem scd (n : Count) : Statement (.scd n) := fun _ => by revert n; decide

theorem scr : Statement .scr := fun _ => by decide

theorem scl : Statement .scl := fun _ => by decide

theorem lores : Statement .lores := fun _ => by decide

theorem hires : Statement .hires := fun _ => by decide

theorem sys (addr : Addr) : Statement (.sys addr) := by
  intro h
  have hlt := addr.isLt
  have hw : ∀ n : Nat, n < 4096 → addr.toNat ≠ n → wordNNN 0x0 addr ≠ BitVec.ofNat 16 n := by
    intro n hn hne he
    have := congrArg BitVec.toNat he
    simp only [wordNNN, BitVec.toNat_ofNat] at this
    omega
  have hc : bitField (wordNNN 0x0 addr) 4 12 = addr.toNat / 16 := by
    rw [wordNNN, bitField_word _ _ _ (wordNNN_lt 0x0 addr (by decide))]; omega
  have ha : ∀ n : Nat, n < 4096 → addr ≠ BitVec.ofNat 12 n → addr.toNat ≠ n := by
    intro n hn hne he
    exact hne (by rw [← he, BitVec.ofNat_toNat, BitVec.setWidth_eq])
  simp only [Instr.wellFormed, claimedSysAddr, Bool.not_eq_true', Bool.or_eq_false_iff, beq_eq_false_iff_ne,
    Bool.and_eq_false_iff, decide_eq_false_iff_not] at h
  obtain ⟨⟨⟨⟨⟨⟨⟨h1, h2⟩, h3⟩, h4⟩, h5⟩, h6⟩, h7⟩, h8⟩ := h
  rw [encode, parse, fieldO_wordNNN _ _ (by decide)]
  simp only [parse0]
  have e0 : wordNNN 0x0 addr ≠ 0x0E0 := hw 0x0E0 (by decide) (ha _ (by decide) h1)
  have e1 : wordNNN 0x0 addr ≠ 0x230 := hw 0x230 (by decide) (ha _ (by decide) h2)
  have e2 : wordNNN 0x0 addr ≠ 0x0EE := hw 0x0EE (by decide) (ha _ (by decide) h3)
  have e3 : wordNNN 0x0 addr ≠ 0x0FB := hw 0x0FB (by decide) (ha _ (by decide) h5)
  have e4 : wordNNN 0x0 addr ≠ 0x0FC := hw 0x0FC (by decide) (ha _ (by decide) h6)
  have e5 : wordNNN 0x0 addr ≠ 0x0FE := hw 0x0FE (by decide) (ha _ (by decide) h7)
  have e6 : wordNNN 0x0 addr ≠ 0x0FF := hw 0x0FF (by decide) (ha _ (by decide) h8)
  rw [if_neg e0, if_neg e1, if_neg e2, if_neg (by rw [hc]; omega), if_neg e3, if_neg e4, if_neg e5, if_neg e6,
    fieldNNN_wordNNN _ _ (by decide)]

theorem jp (addr : Addr) : Statement (.jp addr) := by
  intro _
  rw [encode, parse, fieldO_wordNNN _ _ (by decide)]
  simp only [fieldNNN_wordNNN _ _ (show 0x1 < 16 by decide)]

theorem call (addr : Addr) : Statement (.call addr) := by
  intro _
  rw [encode, parse, fieldO_wordNNN _ _ (by decide)]
  simp only [fieldNNN_wordNNN _ _ (show 0x2 < 16 by decide)]

theorem seImm (x : Reg) (kk : Byte) : Statement (.seImm x kk) := by
  intro _
  rw [encode, parse, fieldO_wordXKK _ _ _ (by decide)]
  simp only [fieldX_wordXKK _ _ _ (show 0x3 < 16 by decide), fieldKK_wordXKK _ _ _ (show 0x3 < 16 by decide)]

theorem sneImm (x : Reg) (kk : Byte) : Statement (.sneImm x kk) := by
  intro _
  rw [encode, parse, fieldO_wordXKK _ _ _ (by decide)]
  simp only [fieldX_wordXKK _ _ _ (show 0x4 < 16 by decide), fieldKK_wordXKK _ _ _ (show 0x4 < 16 by decide)]

theorem seReg (x y : Reg) : Statement (.seReg x y) := by
  intro _
  rw [encode, parse, fieldO_wordXYN _ _ _ _ (by decide) (by decide)]
  simp only [low4_wordXYN _ _ _ _ (show 0x5 < 16 by decide) (show 0x0 < 16 by decide), fieldX_wordXYN _ _ _ _ (show 0x5 < 16 by decide) (show 0x0 < 16 by decide), fieldY_wordXYN _ _ _ _ (show 0x5 < 16 by decide) (show 0x0 < 16 by decide), if_true]

theorem ldImm (x : Reg) (kk : Byte) : Statement (.ldImm x kk) := by
  intro _
  rw [encode, parse, fieldO_wordXKK _ _ _ (by decide)]
  simp only [fieldX_wordXKK _ _ _ (show 0x6 < 16 by decide), fieldKK_wordXKK _ _ _ (show 0x6 < 16 by decide)]

theorem addImm (x : Reg) (kk : Byte) : Statement (.addImm x kk) := by
  intro _
  rw [encode, parse, fieldO_wordXKK _ _ _ (by decide)]
  simp only [fieldX_wordXKK _ _ _ (show 0x7 < 16 by decide), fieldKK_wordXKK _ _ _ (show 0x7 < 16 by decide)]

theorem ldReg (x y : Reg) : Statement (.ldReg x y) := by
  intro _
  rw [encode, parse, fieldO_wordXYN _ _ _ _ (by decide) (by decide)]
  simp only [parse8, low4_wordXYN _ _ _ _ (show 0x8 < 16 by decide) (show 0x0 < 16 by decide), fieldX_wordXYN _ _ _ _ (show 0x8 < 16 by decide) (show 0x0 < 16 by decide), fieldY_wordXYN _ _ _ _ (show 0x8 < 16 by decide) (show 0x0 < 16 by decide)]

theorem orReg (x y : Reg) : Statement (.orReg x y) := by
  intro _
  rw [encode, parse, fieldO_wordXYN _ _ _ _ (by decide) (by decide)]
  simp only [parse8, low4_wordXYN _ _ _ _ (show 0x8 < 16 by decide) (show 0x1 < 16 by decide), fieldX_wordXYN _ _ _ _ (show 0x8 < 16 by decide) (show 0x1 < 16 by decide), fieldY_wordXYN _ _ _ _ (show 0x8 < 16 by decide) (show 0x1 < 16 by decide)]

theorem andReg (x y : Reg) : Statement (.andReg x y) := by
  intro _
  rw [encode, parse, fieldO_wordXYN _ _ _ _ (by decide) (by decide)]
  simp only [parse8, low4_wordXYN _ _ _ _ (show 0x8 < 16 by decide) (show 0x2 < 16 by decide), fieldX_wordXYN _ _ _ _ (show 0x8 < 16 by decide) (show 0x2 < 16 by decide), fieldY_wordXYN _ _ _ _ (show 0x8 < 16 by decide) (show 0x2 < 16 by decide)]

theorem xorReg (x y : Reg) : Statement (.xorReg x y) := by
  intro _
  rw [encode, parse, fieldO_wordXYN _ _ _ _ (by decide) (by decide)]
  simp only [parse8, low4_wordXYN _ _ _ _ (show 0x8 < 16 by decide) (show 0x3 < 16 by decide), fieldX_wordXYN _ _ _ _ (show 0x8 < 16 by decide) (show 0x3 < 16 by decide), fieldY_wordXYN _ _ _ _ (show 0x8 < 16 by decide) (show 0x3 < 16 by decide)]

theorem addReg (x y : Reg) : Statement (.addReg x y) := by
  intro _
  rw [encode, parse, fieldO_wordXYN _ _ _ _ (by decide) (by decide)]
  simp only [parse8, low4_wordXYN _ _ _ _ (show 0x8 < 16 by decide) (show 0x4 < 16 by decide), fieldX_wordXYN _ _ _ _ (show 0x8 < 16 by decide) (show 0x4 < 16 by decide), fieldY_wordXYN _ _ _ _ (show 0x8 < 16 by decide) (show 0x4 < 16 by decide)]

theorem sub (x y : Reg) : Statement (.sub x y) := by
  intro _
  rw [encode, parse, fieldO_wordXYN _ _ _ _ (by decide) (by decide)]
  simp only [parse8, low4_wordXYN _ _ _ _ (show 0x8 < 16 by decide) (show 0x5 < 16 by decide), fieldX_wordXYN _ _ _ _ (show 0x8 < 16 by decide) (show 0x5 < 16 by decide), fieldY_wordXYN _ _ _ _ (show 0x8 < 16 by decide) (show 0x5 < 16 by decide)]

theorem shr (x y : Reg) : Statement (.shr x y) := by
  intro _
  rw [encode, parse, fieldO_wordXYN _ _ _ _ (by decide) (by decide)]
  simp only [parse8, low4_wordXYN _ _ _ _ (show 0x8 < 16 by decide) (show 0x6 < 16 by decide), fieldX_wordXYN _ _ _ _ (show 0x8 < 16 by decide) (show 0x6 < 16 by decide), fieldY_wordXYN _ _ _ _ (show 0x8 < 16 by decide) (show 0x6 < 16 by decide)]

theorem subn (x y : Reg) : Statement (.subn x y) := by
  intro _
  rw [encode, parse, fieldO_wordXYN _ _ _ _ (by decide) (by decide)]
  simp only [parse8, low4_wordXYN _ _ _ _ (show 0x8 < 16 by decide) (show 0x7 < 16 by decide), fieldX_wordXYN _ _ _ _ (show 0x8 < 16 by decide) (show 0x7 < 16 by decide), fieldY_wordXYN _ _ _ _ (show 0x8 < 16 by decide) (show 0x7 < 16 by decide)]

theorem shl (x y : Reg) : Statement (.shl x y) := by
  intro _
  rw [encode, parse, fieldO_wordXYN _ _ _ _ (by decide) (by decide)]
  simp only [parse8, low4_wordXYN _ _ _ _ (show 0x8 < 16 by decide) (show 0xE < 16 by decide), fieldX_wordXYN _ _ _ _ (show 0x8 < 16 by decide) (show 0xE < 16 by decide), fieldY_wordXYN _ _ _ _ (show 0x8 < 16 by decide) (show 0xE < 16 by decide)]

theorem sneReg (x y : Reg) : Statement (.sneReg x y) := by
  intro _
  rw [encode, parse, fieldO_wordXYN _ _ _ _ (by decide) (by decide)]
  simp only [low4_wordXYN _ _ _ _ (show 0x9 < 16 by decide) (show 0x0 < 16 by decide), fieldX_wordXYN _ _ _ _ (show 0x9 < 16 by decide) (show 0x0 < 16 by decide), fieldY_wordXYN _ _ _ _ (show 0x9 < 16 by decide) (show 0x0 < 16 by decide), if_true]

theorem ldI (addr : Addr) : Statement (.ldI addr) := by
  intro _
  rw [encode, parse, fieldO_wordNNN _ _ (by decide)]
  simp only [fieldNNN_wordNNN _ _ (show 0xA < 16 by decide)]

theorem jpV (x : Reg) (addr : Addr) : Statement (.jpV x addr) := by
  intro h
  rw [encode, parse, fieldO_wordNNN _ _ (by decide)]
  simp only [Instr.wellFormed, beq_iff_eq] at h
  simp only [fieldX_wordNNN _ _ (show 0xB < 16 by decide), fieldNNN_wordNNN _ _ (show 0xB < 16 by decide), h]

theorem rnd (x : Reg) (kk : Byte) : Statement (.rnd x kk) := by
  intro _
  rw [encode, parse, fieldO_wordXKK _ _ _ (by decide)]
  simp only [fieldX_wordXKK _ _ _ (show 0xC < 16 by decide), fieldKK_wordXKK _ _ _ (show 0xC < 16 by decide)]

theorem drw16 (x y : Reg) : Statement (.drw16 x y) := by
  intro _
  rw [encode, parse, fieldO_wordXYN _ _ _ _ (by decide) (by decide)]
  simp only [low4_wordXYN _ _ _ _ (show 0xD < 16 by decide) (show 0x0 < 16 by decide), fieldX_wordXYN _ _ _ _ (show 0xD < 16 by decide) (show 0x0 < 16 by decide), fieldY_wordXYN _ _ _ _ (show 0xD < 16 by decide) (show 0x0 < 16 by decide), if_true]

theorem drw (x y : Reg) (n : Count) : Statement (.drw x y n) := by
  intro h
  rw [encode, parse, fieldO_wordXYN _ _ _ _ (by decide) n.isLt]
  simp only [Instr.wellFormed, bne_iff_ne, ne_eq, Fin.ext_iff] at h
  simp only [low4_wordXYN _ _ _ _ (show 0xD < 16 by decide) n.isLt, fieldX_wordXYN _ _ _ _ (show 0xD < 16 by decide) n.isLt,
    fieldY_wordXYN _ _ _ _ (show 0xD < 16 by decide) n.isLt, fieldN_wordXYN _ _ _ _ (show 0xD < 16 by decide)]
  exact if_neg h

theorem skp (x : Reg) : Statement (.skp x) := by
  intro _
  rw [encode, parse, fieldO_wordX _ _ _ (by decide) (by decide)]
  simp only [parseE, low8_wordX _ _ _ (show 0xE < 16 by decide) (show 0x9E < 256 by decide), fieldX_wordX _ _ _ (show 0xE < 16 by decide) (show 0x9E < 256 by decide)]

theorem sknp (x : Reg) : Statement (.sknp x) := by
  intro _
  rw [encode, parse, fieldO_wordX _ _ _ (by decide) (by decide)]
  simp only [parseE, low8_wordX _ _ _ (show 0xE < 16 by decide) (show 0xA1 < 256 by decide), fieldX_wordX _ _ _ (show 0xE < 16 by decide) (show 0xA1 < 256 by decide)]

theorem ldVxDt (x : Reg) : Statement (.ldVxDt x) := by
  intro _
  rw [encode, parse, fieldO_wordX _ _ _ (by decide) (by decide)]
  simp only [parseF, low8_wordX _ _ _ (show 0xF < 16 by decide) (show 0x07 < 256 by decide), fieldX_wordX _ _ _ (show 0xF < 16 by decide) (show 0x07 < 256 by decide)]

theorem ldVxK (x : Reg) : Statement (.ldVxK x) := by
  intro _
  rw [encode, parse, fieldO_wordX _ _ _ (by decide) (by decide)]
  simp only [parseF, low8_wordX _ _ _ (show 0xF < 16 by decide) (show 0x0A < 256 by decide), fieldX_wordX _ _ _ (show 0xF < 16 by decide) (show 0x0A < 256 by decide)]

theorem ldDtVx (x : Reg) : Statement (.ldDtVx x) := by
  intro _
  rw [encode, parse, fieldO_wordX _ _ _ (by decide) (by decide)]
  simp only [parseF, low8_wordX _ _ _ (show 0xF < 16 by decide) (show 0x15 < 256 by decide), fieldX_wordX _ _ _ (show 0xF < 16 by decide) (show 0x15 < 256 by decide)]

theorem ldStVx (x : Reg) : Statement (.ldStVx x) := by
  intro _
  rw [encode, parse, fieldO_wordX _ _ _ (by decide) (by decide)]
  simp only [parseF, low8_wordX _ _ _ (show 0xF < 16 by decide) (show 0x18 < 256 by decide), fieldX_wordX _ _ _ (show 0xF < 16 by decide) (show 0x18 < 256 by decide)]

theorem addI (x : Reg) : Statement (.addI x) := by
  intro _
  rw [encode, parse, fieldO_wordX _ _ _ (by decide) (by decide)]
  simp only [parseF, low8_wordX _ _ _ (show 0xF < 16 by decide) (show 0x1E < 256 by decide), fieldX_wordX _ _ _ (show 0xF < 16 by decide) (show 0x1E < 256 by decide)]

theorem ldF (x : Reg) : Statement (.ldF x) := by
  intro _
  rw [encode, parse, fieldO_wordX _ _ _ (by decide) (by decide)]
  simp only [parseF, low8_wordX _ _ _ (show 0xF < 16 by decide) (show 0x29 < 256 by decide), fieldX_wordX _ _ _ (show 0xF < 16 by decide) (show 0x29 < 256 by decide)]

theorem ldHF (x : Reg) : Statement (.ldHF x) := by
  intro _
  rw [encode, parse, fieldO_wordX _ _ _ (by decide) (by decide)]
  simp only [parseF, low8_wordX _ _ _ (show 0xF < 16 by decide) (show 0x30 < 256 by decide), fieldX_wordX _ _ _ (show 0xF < 16 by decide) (show 0x30 < 256 by decide)]

theorem ldB (x : Reg) : Statement (.ldB x) := by
  intro _
  rw [encode, parse, fieldO_wordX _ _ _ (by decide) (by decide)]
  simp only [parseF, low8_wordX _ _ _ (show 0xF < 16 by decide) (show 0x33 < 256 by decide), fieldX_wordX _ _ _ (show 0xF < 16 by decide) (show 0x33 < 256 by decide)]

theorem ldStore (x : Reg) : Statement (.ldStore x) := by
  intro _
  rw [encode, parse, fieldO_wordX _ _ _ (by decide) (by decide)]
  simp only [parseF, low8_wordX _ _ _ (show 0xF < 16 by decide) (show 0x55 < 256 by decide), fieldX_wordX _ _ _ (show 0xF < 16 by decide) (show 0x55 < 256 by decide)]

theorem ldLoad (x : Reg) : Statement (.ldLoad x) := by
  intro _
  rw [encode, parse, fieldO_wordX _ _ _ (by decide) (by decide)]
  simp only [parseF, low8_wordX _ _ _ (show 0xF < 16 by decide) (show 0x65 < 256 by decide), fieldX_wordX _ _ _ (show 0xF < 16 by decide) (show 0x65 < 256 by decide)]

theorem save (x : Reg) : Statement (.save x) := by
  intro _
  rw [encode, parse, fieldO_wordX _ _ _ (by decide) (by decide)]
  simp only [parseF, low8_wordX _ _ _ (show 0xF < 16 by decide) (show 0x75 < 256 by decide), fieldX_wordX _ _ _ (show 0xF < 16 by decide) (show 0x75 < 256 by decide)]

theorem load (x : Reg) : Statement (.load x) := by
  intro _
  rw [encode, parse, fieldO_wordX _ _ _ (by decide) (by decide)]
  simp only [parseF, low8_wordX _ _ _ (show 0xF < 16 by decide) (show 0x85 < 256 by decide), fieldX_wordX _ _ _ (show 0xF < 16 by decide) (show 0x85 < 256 by decide)]

end Sys2Proof.Laws.RoundTrip
end

