-- ==== Sys2Proof/Laws/Step.lean ====
section
/-! SUPPORT. What a step of the machine can do, said once: a step of the CPU, the four cases of the scheduler and what a
host transaction other than `tick` may change. The statements' proofs cite these instead of unfolding `step`. -/

namespace Sys2Proof.Machine

/-! ### The CPU's step and a pass of the tick -/

/-- A timer one tick later is one less, and 0 stays 0 (60_exceptions.md R262). -/
theorem timerDown_eq (b : Byte) : timerDown b = BitVec.ofNat 8 (b.toNat - 1) := by
  revert b
  decide

/-- A step of the CPU either records a decode fault or runs the decoded instruction after the advance of `pc` (R110). -/
theorem cpuStep_cases {s t : State} (h : cpuStep s = .next t) :
    (∃ e, parse s.fetch = .error e ∧ t = s.setFault (some (.decodeFault s.pc s.fetch))) ∨
    ∃ i, parse s.fetch = .ok i ∧ exec i (s.setPc (s.pc + 2)) = .next t := by
  unfold cpuStep at h
  cases hp : parse s.fetch with
  | error e => rw [hp] at h; cases h; exact .inl ⟨e, rfl, rfl⟩
  | ok i => rw [hp] at h; exact .inr ⟨i, rfl, h⟩

/-- A step of the CPU on a word that decodes runs its instruction. -/
theorem cpuStep_of_ok {s : State} {i : Instr} (h : parse s.fetch = .ok i) : cpuStep s = exec i (s.setPc (s.pc + 2)) := by
  rw [cpuStep, h]
  rfl

/-- A step of the CPU on a word that does not decode writes `FAULT` only (R242). -/
theorem cpuStep_of_error {s : State} {e : DecodeError} (h : parse s.fetch = .error e) :
    cpuStep s = .next (s.setFault (some (.decodeFault s.pc s.fetch))) := by
  rw [cpuStep, h]
  rfl

theorem stepCost_of_ok {s : State} {i : Instr} (h : parse s.fetch = .ok i) : stepCost s = s.cost i := by
  rw [stepCost, h]

/-- A pass of the tick is a step of the CPU and what the tick does after it. -/
theorem runCycle_of_next {a : Nat} {s t : State} (h : cpuStep s = .next t) :
    runCycle a s = .next (t.afterStep (a + stepCost s)) := by
  rw [runCycle, h]

theorem runCycle_cases {a : Nat} {s t : State} (h : runCycle a s = .next t) :
    ∃ u, cpuStep s = .next u ∧ t = u.afterStep (a + stepCost s) := by
  unfold runCycle at h
  split at h
  · rename_i u hu; cases h; exact ⟨u, hu, rfl⟩
  · cases h
  · cases h

/-- After a step the tick changes the timers, `HALTED` and its own cycle count, and never clears `HALTED`. -/
theorem State.afterStep_frame (t : State) (c : Nat) :
    ∃ dt st h acc, t.afterStep c = { t with dt := dt, st := st, halted := h, acc := acc } ∧ (t.halted = true → h = true) := by
  rcases t.afterStep_cases c with ⟨_, e⟩ | ⟨_, _, e⟩ | ⟨_, _, _, e⟩ | ⟨_, _, _, _, e⟩ <;> rw [e]
  · exact ⟨_, _, _, _, rfl, id⟩
  · exact ⟨_, _, _, _, rfl, fun _ => rfl⟩
  · exact ⟨_, _, _, _, rfl, id⟩
  · exact ⟨_, _, _, _, rfl, id⟩

/-! ### The scheduler -/

theorem step_in_tick {s : State} {a : Nat} (h : s.acc = some a) : step s = continueTick a s := by
  rw [step, schedule, h]

theorem step_idle {s : State} (h : s.acc = none) (h' : s.hostCalls = []) : step s = beginTick s := by
  rw [step, schedule, h, h']

theorem step_call {s : State} {c : Transaction} {rest : List Transaction} (h : s.acc = none)
    (h' : s.hostCalls = c :: rest) : step s = transact c (s.setHostCalls rest) := by
  rw [step, schedule, h, h']

theorem continueTick_ready {s : State} (a : Nat) (h : s.ready = true) : continueTick a s = runCycle a s := by
  rw [continueTick, if_pos h]

theorem beginTick_notReady {s : State} (h : s.ready = false) : beginTick s = .next s := by
  rw [beginTick, h]
  rfl

theorem beginTick_noBudget {s : State} (h : s.ready = true) (hb : s.budget = 0) : beginTick s = .next s.tickTimers := by
  rw [beginTick, h, if_neg (by decide), if_pos hb]

theorem beginTick_budget {s : State} (h : s.ready = true) (hb : s.budget ≠ 0) : beginTick s = runCycle 0 s := by
  rw [beginTick, h, if_neg (by decide), if_neg hb]

/-- All that the start of a tick can do. -/
theorem beginTick_cases {s t : State} (h : beginTick s = .next t) :
    (s.ready = false ∧ t = s) ∨ (s.ready = true ∧ s.budget = 0 ∧ t = s.tickTimers) ∨
    (s.ready = true ∧ 0 < s.budget ∧ ∃ u, cpuStep s = .next u ∧ t = u.afterStep (0 + stepCost s)) := by
  cases hr : s.ready with
  | false => rw [beginTick_notReady hr] at h; cases h; exact .inl ⟨rfl, rfl⟩
  | true =>
    by_cases hb : s.budget = 0
    · rw [beginTick_noBudget hr hb] at h; cases h; exact .inr (.inl ⟨rfl, hb, rfl⟩)
    · rw [beginTick_budget hr hb] at h; exact .inr (.inr ⟨rfl, Nat.pos_of_ne_zero hb, runCycle_cases h⟩)

/-- All that a step can do: end a tick that is not ready (assumption 29), a pass of the running tick, the start of a tick
(listed or implied), or another transaction. -/
theorem step_cases {s t : State} (h : step s = .next t) :
    (∃ a, s.acc = some a ∧ s.ready = false ∧ t = s.setAcc none) ∨
    (∃ a u, s.acc = some a ∧ s.ready = true ∧ cpuStep s = .next u ∧ t = u.afterStep (a + stepCost s)) ∨
    (s.acc = none ∧ s.hostCalls = [] ∧ beginTick s = .next t) ∨
    (∃ c rest, s.acc = none ∧ s.hostCalls = c :: rest ∧ transact c (s.setHostCalls rest) = .next t) := by
  cases ha : s.acc with
  | some a =>
    rw [step_in_tick ha] at h
    cases hr : s.ready with
    | false => rw [continueTick, hr] at h; cases h; exact .inl ⟨a, rfl, rfl, rfl⟩
    | true =>
      rw [continueTick_ready a hr] at h
      obtain ⟨u, hu, e⟩ := runCycle_cases h
      exact .inr (.inl ⟨a, u, rfl, rfl, hu, e⟩)
  | none =>
    cases hh : s.hostCalls with
    | nil => rw [step_idle ha hh] at h; exact .inr (.inr (.inl ⟨rfl, rfl, h⟩))
    | cons c rest => rw [step_call ha hh] at h; exact .inr (.inr (.inr ⟨c, rest, rfl, rfl, h⟩))

/-- A transaction other than `tick` changes keys, memory, breakpoints and `HALTED` only (60_exceptions.md R272 to R277). -/
theorem transact_frame {c : Transaction} {s t : State} (h : transact c s = .next t) (hc : c ≠ .tick) :
    ∃ keys mem bps halted, t = { s with keys := keys, mem := mem, breakpoints := bps, halted := halted } := by
  cases c with
  | tick => exact absurd rfl hc
  | loadProgram bytes => simp only [transact, hostLoadProgram] at h; split_ifs at h; cases h; exact ⟨_, _, _, _, rfl⟩
  | keydown k => simp only [transact, hostKey] at h; split_ifs at h; cases h; exact ⟨_, _, _, _, rfl⟩
  | keyup k => simp only [transact, hostKey] at h; split_ifs at h; cases h; exact ⟨_, _, _, _, rfl⟩
  | setBreakpoint a => cases h; exact ⟨_, _, _, _, rfl⟩
  | removeBreakpoint a => cases h; exact ⟨_, _, _, _, rfl⟩
  | resume => cases h; exact ⟨_, _, _, _, rfl⟩

theorem run_succ (M : Host.Core) (n : Nat) {s t : M.State} (h : M.step s = .next t) : M.run (n + 1) s = M.run n t := by
  rw [Host.Core.run, h]

/-- `n` steps and then one more. -/
theorem run_snoc (M : Host.Core) (n : Nat) {s t u : M.State} (h : M.run n s = .next t) (h' : M.step t = .next u) :
    M.run (n + 1) s = .next u := by
  induction n generalizing s with
  | zero => cases h; rw [run_succ M 0 h']; rfl
  | succ n ih =>
    cases hs : M.step s with
    | next v => rw [run_succ M n hs] at h; rw [run_succ M (n + 1) hs]; exact ih h
    | fault r => rw [Host.Core.run, hs] at h; cases h
    | refused r => rw [Host.Core.run, hs] at h; cases h

/-- `n + 1` steps that answer a next state are `n` steps that do and one more. -/
theorem run_snoc_cases (M : Host.Core) (n : Nat) {s u : M.State} (h : M.run (n + 1) s = .next u) :
    ∃ t, M.run n s = .next t ∧ M.step t = .next u := by
  induction n generalizing s with
  | zero =>
    cases hs : M.step s with
    | next v => rw [run_succ M 0 hs] at h; cases h; exact ⟨s, rfl, hs⟩
    | fault r => rw [Host.Core.run, hs] at h; cases h
    | refused r => rw [Host.Core.run, hs] at h; cases h
  | succ n ih =>
    cases hs : M.step s with
    | next v =>
      rw [run_succ M (n + 1) hs] at h
      obtain ⟨t, h1, h2⟩ := ih h
      exact ⟨t, by rw [run_succ M n hs]; exact h1, h2⟩
    | fault r => rw [Host.Core.run, hs] at h; cases h
    | refused r => rw [Host.Core.run, hs] at h; cases h

/-- One step of `core` and then `n` more. -/
theorem run_succ_of_next {s t : State} (n : Nat) (h : step s = .next t) :
    Host.Core.run Sys2Proof.core (n + 1) s = Host.Core.run Sys2Proof.core n t := run_succ Sys2Proof.core n h

end Sys2Proof.Machine
end

