-- ==== Sys2Proof/Tests/Slice0.lean ====
section
/-! SUPPORT. The model's own tests: the well-formedness smoke, one word per constructor written out from the opcode map
(30_encoding.md R91), small one-step tests whose expected results are those of 95_test_vectors.md (named in each comment),
and a witness for every statement that has hypotheses. -/

namespace Sys2Proof.Tests

open Sys2Proof Sys2Proof.Machine Sys2Proof.Claims

-- One after another: many kernel evaluations at once would take a thread's memory each.
set_option Elab.async false

/-! ### Well-formedness refuses -/

/-- `SYS` with the address of a more specific row. -/
theorem test_wf_sys : (Instr.sys 0x0E0).wellFormed = false ∧ (Instr.sys 0x0CF).wellFormed = false := by decide
/-- 90_conflicts.md C4: no word encodes `x = 2` with `addr = 0x444`. -/
theorem test_wf_jpV : (Instr.jpV 2 0x444).wellFormed = false := by decide
/-- `DRW` with `n = 0` is the other draw. -/
theorem test_wf_drw : (Instr.drw 0 1 0).wellFormed = false := by decide

/-! ### Words written out from the opcode map -/

theorem test_decode_exact_words :
    parse 0b0000000011100000 = .ok .cls ∧ parse 0b0000001000110000 = .ok .cls ∧ parse 0b0000000011101110 = .ok .ret ∧
    parse 0b0000000011001111 = .ok (.scd 15) ∧ parse 0b0000000011111011 = .ok .scr ∧
    parse 0b0000000011111100 = .ok .scl ∧ parse 0b0000000011111110 = .ok .lores ∧
    parse 0b0000000011111111 = .ok .hires := by decide

theorem test_decode_addresses :
    parse 0b0000001000110001 = .ok (.sys 0x231) ∧ parse 0b0001101111001101 = .ok (.jp 0xBCD) ∧
    parse 0b0010101111001101 = .ok (.call 0xBCD) ∧ parse 0b1010101111001101 = .ok (.ldI 0xBCD) ∧
    parse 0b1011101111001101 = .ok (.jpV 0xB 0xBCD) := by decide

theorem test_decode_immediates :
    parse 0b0011000110101011 = .ok (.seImm 1 0xAB) ∧ parse 0b0100000110101011 = .ok (.sneImm 1 0xAB) ∧
    parse 0b0110000110101011 = .ok (.ldImm 1 0xAB) ∧ parse 0b0111000110101011 = .ok (.addImm 1 0xAB) ∧
    parse 0b1100000110101011 = .ok (.rnd 1 0xAB) := by decide

theorem test_decode_two_registers :
    parse 0b0101000100100000 = .ok (.seReg 1 2) ∧ parse 0b1001000100100000 = .ok (.sneReg 1 2) ∧
    parse 0b1000000100100000 = .ok (.ldReg 1 2) ∧ parse 0b1000000100100001 = .ok (.orReg 1 2) ∧
    parse 0b1000000100100010 = .ok (.andReg 1 2) ∧ parse 0b1000000100100011 = .ok (.xorReg 1 2) ∧
    parse 0b1000000100100100 = .ok (.addReg 1 2) ∧ parse 0b1000000100100101 = .ok (.sub 1 2) ∧
    parse 0b1000000100100110 = .ok (.shr 1 2) ∧ parse 0b1000000100100111 = .ok (.subn 1 2) ∧
    parse 0b1000000100101110 = .ok (.shl 1 2) := by decide

theorem test_decode_draws_and_keys :
    parse 0b1101000100101111 = .ok (.drw 1 2 15) ∧ parse 0b1101000100100000 = .ok (.drw16 1 2) ∧
    parse 0b1110000110011110 = .ok (.skp 1) ∧ parse 0b1110000110100001 = .ok (.sknp 1) := by decide

theorem test_decode_one_register :
    parse 0b1111000100000111 = .ok (.ldVxDt 1) ∧ parse 0b1111000100001010 = .ok (.ldVxK 1) ∧
    parse 0b1111000100010101 = .ok (.ldDtVx 1) ∧ parse 0b1111000100011000 = .ok (.ldStVx 1) ∧
    parse 0b1111000100011110 = .ok (.addI 1) ∧ parse 0b1111000100101001 = .ok (.ldF 1) ∧
    parse 0b1111000100110000 = .ok (.ldHF 1) ∧ parse 0b1111000100110011 = .ok (.ldB 1) ∧
    parse 0b1111000101010101 = .ok (.ldStore 1) ∧ parse 0b1111000101100101 = .ok (.ldLoad 1) ∧
    parse 0b1111000101110101 = .ok (.save 1) ∧ parse 0b1111000110000101 = .ok (.load 1) := by decide

/-- 95_test_vectors.md 2.1: the rejected words, and the words that fall back to `SYS`. -/
theorem test_decode_rejects :
    parse 0x5121 = .error (.noRow 0x5121) ∧ parse 0x8128 = .error (.noRow 0x8128) ∧ parse 0x812F = .error (.noRow 0x812F) ∧
    parse 0x9121 = .error (.noRow 0x9121) ∧ parse 0xE100 = .error (.noRow 0xE100) ∧ parse 0xF000 = .error (.noRow 0xF000) ∧
    parse 0xF101 = .error (.noRow 0xF101) ∧ parse 0xF002 = .error (.noRow 0xF002) ∧ parse 0xF13A = .error (.noRow 0xF13A) ∧
    parse 0x00FD = .ok (.sys 0x0FD) ∧ parse 0x00D3 = .ok (.sys 0x0D3) ∧ parse 0x0000 = .ok (.sys 0x000) := by decide

/-- The host's view: the word's bytes are the table's, and fewer than two bytes are no instruction. -/
theorem test_decode_table_word :
    decodeTableWord 16 0xD015 = some (.drw 0 1 5) ∧ decodeTableWord 16 0x5121 = none ∧
    decodeBytes [0xD0, 0x15, 0xAA] = .ok (.drw 0 1 5, [0xAA]) ∧ decodeBytes [0xD0] = .error .tooShort := by decide

/-! ### Small states -/

/-- The reset state with the listed registers set. -/
def withV (l : List (Reg × Byte)) : State := l.foldl (fun s e => s.setV e.1 e.2) State.reset

/-- The state with some quirks. -/
def quirky (q : Quirks) (s : State) : State := { s with quirks := q }

/-- The step that runs `w` on `s` answers a next state with the property `p`. -/
def stepOf (s : State) (w : Word) (p : State → Bool) : Bool :=
  match step (s.placeWord w) with
  | .next t => p t
  | .fault _ => false
  | .refused _ => false

/-- Byte `a` of memory is `b`. -/
def holds (t : State) (a : Nat) (b : Byte) : Bool := t.readByte a == b

/-- The pixel at column `x`, row `y`. -/
def px (t : State) (x y : Nat) : Bool := pixelAt t.vram t.width x y

/-- How many pixels are set. -/
def lit (t : State) : Nat := t.vram.countP id

/-- The 64x32 state with the pixel at column `x`, row `y` set, and no other. -/
def onePixel (x y : Nat) : State :=
  State.reset.setVram (List.replicate (y * 64 + x) false ++ true :: List.replicate (2047 - (y * 64 + x)) false)

/-! ### Control flow (95_test_vectors.md 2.2) -/

theorem test_sys : stepOf State.reset 0x00FD (fun t => t.fault == some (.unmodelledSys 0x200 0x0FD) && t.pc == 0x200) = true := by
  decide +kernel
theorem test_decode_fault :
    stepOf State.reset 0x5121 (fun t => t.fault == some (.decodeFault 0x200 0x5121) && t.pc == 0x200 && t.dt == 0) = true := by
  decide +kernel
theorem test_jp : stepOf State.reset 0x1202 (fun t => t.pc == 0x202 && t.running) = true := by decide +kernel
theorem test_jp_self : stepOf State.reset 0x1200 (fun t => t.pc == 0x200 && !t.running && t.acc == none) = true := by
  decide +kernel
theorem test_call : stepOf State.reset 0x2300 (fun t => t.pc == 0x300 && t.stack == [0x202]) = true := by decide +kernel
theorem test_call_full :
    stepOf { State.reset with stack := [0x1, 0x2], stackDepth := some 2 } 0x2300
      (fun t => t.fault == some (.stackOverflow 0x200) && t.pc == 0x200 && t.stack == [0x1, 0x2]) = true := by decide +kernel
theorem test_ret : stepOf { State.reset with stack := [0x111, 0x202] } 0x00EE (fun t => t.pc == 0x202 && t.stack == [0x111]) = true := by
  decide +kernel
theorem test_ret_empty : stepOf State.reset 0x00EE (fun t => t.pc == 0x000 && t.fault == none) = true := by decide +kernel
theorem test_jpV : stepOf (withV [(0, 0xFF), (15, 1)]) 0xBFFF (fun t => t.pc == 0x10FE) = true := by decide +kernel
theorem test_jpV_jumping :
    stepOf (quirky { resetQuirks with jumping := true } (withV [(0, 0xFF), (15, 1)])) 0xBFFF (fun t => t.pc == 0x1000) = true := by
  decide +kernel
theorem test_se : stepOf (withV [(3, 0x12)]) 0x3312 (fun t => t.pc == 0x204) = true := by decide +kernel
theorem test_sne : stepOf (withV [(3, 0x13)]) 0x4312 (fun t => t.pc == 0x204) = true := by decide +kernel
theorem test_se_registers : stepOf (withV [(1, 7), (2, 7)]) 0x5120 (fun t => t.pc == 0x204) = true := by decide +kernel
theorem test_sne_registers : stepOf (withV [(1, 7), (2, 8)]) 0x9120 (fun t => t.pc == 0x204) = true := by decide +kernel
/-- The skip at the top of memory: `pc` is 16 bits and not reduced. -/
theorem test_se_top : stepOf (State.reset.setPc 0xFFE) 0x3000 (fun t => t.pc == 0x1002) = true := by decide +kernel
/-- A word across the top of memory; not a self-jump. -/
theorem test_fetch_across : stepOf (State.reset.setPc 0xFFF) 0x1000 (fun t => t.pc == 0x000 && t.running) = true := by decide +kernel

/-! ### ALU (2.3 and E2 to E4) -/

theorem test_ld_imm : stepOf State.reset 0x6A42 (fun t => t.reg 10 == 0x42 && t.pc == 0x202) = true := by decide +kernel
theorem test_add_imm : stepOf (withV [(1, 0xFF), (15, 7)]) 0x7102 (fun t => t.reg 1 == 0x01 && t.reg 15 == 7) = true := by
  decide +kernel
theorem test_ld_reg : stepOf (withV [(2, 0x33)]) 0x8120 (fun t => t.reg 1 == 0x33) = true := by decide +kernel
theorem test_or : stepOf (withV [(1, 0x0F), (2, 0xF0), (15, 5)]) 0x8121 (fun t => t.reg 1 == 0xFF && t.reg 15 == 5) = true := by
  decide +kernel
theorem test_or_vf_reset :
    stepOf (quirky { resetQuirks with vfReset := true } (withV [(15, 1), (1, 2)])) 0x8F11 (fun t => t.reg 15 == 0) = true := by
  decide +kernel
theorem test_and : stepOf (withV [(1, 0x3C), (2, 0x0F)]) 0x8122 (fun t => t.reg 1 == 0x0C) = true := by decide +kernel
theorem test_xor : stepOf (withV [(1, 0x3C), (2, 0x0F)]) 0x8123 (fun t => t.reg 1 == 0x33) = true := by decide +kernel
theorem test_add : stepOf (withV [(1, 0xF0), (2, 0x20)]) 0x8124 (fun t => t.reg 1 == 0x10 && t.reg 15 == 1) = true := by
  decide +kernel
theorem test_add_vf : stepOf (withV [(15, 0xFF), (1, 0x01)]) 0x8F14 (fun t => t.reg 15 == 1) = true := by decide +kernel
theorem test_sub : stepOf (withV [(1, 0x10), (2, 0x20)]) 0x8125 (fun t => t.reg 1 == 0xF0 && t.reg 15 == 0) = true := by
  decide +kernel
theorem test_sub_equal : stepOf (withV [(1, 5)]) 0x8115 (fun t => t.reg 1 == 0 && t.reg 15 == 1) = true := by decide +kernel
theorem test_subn : stepOf (withV [(1, 0x10), (2, 0x20)]) 0x8127 (fun t => t.reg 1 == 0x10 && t.reg 15 == 1) = true := by
  decide +kernel
theorem test_subn_borrow : stepOf (withV [(1, 5), (2, 3)]) 0x8127 (fun t => t.reg 1 == 0xFE && t.reg 15 == 0) = true := by
  decide +kernel
theorem test_shr : stepOf (withV [(1, 0x04), (2, 0x05)]) 0x8126 (fun t => t.reg 1 == 0x02 && t.reg 15 == 1) = true := by
  decide +kernel
theorem test_shr_shifting :
    stepOf (quirky { resetQuirks with shifting := true } (withV [(1, 0xFF), (2, 0x00)])) 0x8126
      (fun t => t.reg 1 == 0x7F && t.reg 15 == 1) = true := by decide +kernel
theorem test_shl : stepOf (withV [(1, 0x81), (2, 0x40)]) 0x812E (fun t => t.reg 1 == 0x80 && t.reg 15 == 0) = true := by
  decide +kernel
theorem test_shl_shifting :
    stepOf (quirky { resetQuirks with shifting := true } (withV [(1, 0x81), (2, 0x40)])) 0x812E
      (fun t => t.reg 1 == 0x02 && t.reg 15 == 1) = true := by decide +kernel
theorem test_add_index : stepOf ((withV [(3, 0x10)]).setI 0x0FF8) 0xF31E (fun t => t.i == 0x008 && t.reg 15 == 1) = true := by
  decide +kernel
/-- Both values of ADDI_VF_CLEAR. -/
theorem test_add_index_no_overflow :
    ((((withV [(15, 7)]).setI 0x100).addIndex false 0x10).reg 15 = 7 ∧ (((withV [(15, 7)]).setI 0x100).addIndex true 0x10).reg 15 = 0) ∧
      (((withV [(15, 7)]).setI 0x100).addIndex true 0x10).i = 0x110 := by decide +kernel

/-! ### Index, memory, scratch (2.4) -/

theorem test_ld_index : stepOf State.reset 0xA2F0 (fun t => t.i == 0x2F0) = true := by decide +kernel
theorem test_ld_f : stepOf (withV [(0, 0xFF)]) 0xF029 (fun t => t.i == 0x4FB) = true := by decide +kernel
theorem test_ld_hf : stepOf (withV [(0, 0xFF)]) 0xF030 (fun t => t.i == 0xA46) = true := by decide +kernel
theorem test_ld_b :
    stepOf ((withV [(0, 156)]).setI 0x300) 0xF033 (fun t => holds t 0x300 1 && holds t 0x301 5 && holds t 0x302 6) = true := by
  decide +kernel
theorem test_ld_b_wraps :
    stepOf ((withV [(0, 123)]).setI 0xFFE) 0xF033
      (fun t => holds t 0xFFE 1 && holds t 0xFFF 2 && holds t 0x000 3 && t.i == 0xFFE) = true := by decide +kernel
theorem test_ld_store :
    stepOf ((withV [(0, 1), (1, 2), (2, 3)]).setI 0x300) 0xF155
      (fun t => holds t 0x300 1 && holds t 0x301 2 && holds t 0x302 0 && t.i == 0x300) = true := by decide +kernel
theorem test_ld_store_memory_quirk :
    stepOf (quirky { resetQuirks with memory := true } ((withV [(0, 0x11), (1, 0x22), (2, 0x33), (3, 0x44)]).setI 0xFFE)) 0xF355
      (fun t => holds t 0xFFF 0x22 && holds t 0x000 0x33 && holds t 0x001 0x44 && t.i == 0x002) = true := by decide +kernel
theorem test_ld_load :
    stepOf (quirky { resetQuirks with memory := true } ((State.reset.writeRun 0x300 [0xAA, 0xBB, 0xCC, 0xDD]).setI 0x300)) 0xF265
      (fun t => t.reg 0 == 0xAA && t.reg 2 == 0xCC && t.reg 3 == 0 && t.i == 0x303) = true := by decide +kernel
theorem test_save :
    stepOf (withV [(0, 0x10), (3, 0x13), (4, 0x14)]) 0xF375 (fun t => t.flags[0] == 0x10 && t.flags[3] == 0x13 && t.flags[4] == 0) = true := by
  decide +kernel
theorem test_load :
    stepOf { withV [(8, 0xAA)] with flags := #v[1, 2, 3, 4, 5, 6, 7, 8] } 0xFF85
      (fun t => t.reg 0 == 1 && t.reg 7 == 8 && t.reg 8 == 0xAA) = true := by decide +kernel

/-! ### Timers, keys, random (2.5) -/

theorem test_ld_vx_dt : stepOf (State.reset.setDt 0x3C) 0xF307 (fun t => t.reg 3 == 0x3C) = true := by decide +kernel
theorem test_ld_dt_vx : stepOf (withV [(3, 0x3C)]) 0xF315 (fun t => t.dt == 0x3C) = true := by decide +kernel
theorem test_ld_st_vx : stepOf (withV [(3, 0x05)]) 0xF318 (fun t => t.st == 0x05) = true := by decide +kernel
theorem test_skp : stepOf ((withV [(0, 0x1A)]).setKey 10 true) 0xE09E (fun t => t.pc == 0x204) = true := by decide +kernel
theorem test_skp_other : stepOf ((withV [(0, 0x1A)]).setKey 1 true) 0xE09E (fun t => t.pc == 0x202) = true := by decide +kernel
theorem test_sknp : stepOf (withV [(1, 0x15)]) 0xE1A1 (fun t => t.pc == 0x204) = true := by decide +kernel
theorem test_key_wait : stepOf State.reset 0xF30A (fun t => t.pc == 0x200 && t.acc == some 8) = true := by decide +kernel
theorem test_key_taken :
    stepOf (((State.reset.setKey 15 true).setKey 3 true).setKey 9 true) 0xF30A (fun t => t.reg 3 == 3 && t.pc == 0x202) = true := by
  decide +kernel
/-- The draw is free, so only the range and the frame are tested. -/
theorem test_rnd_frame : stepOf (withV [(4, 7)]) 0xC50A (fun t => t.reg 4 == 7 && t.rndCount == 1 && t.pc == 0x202) = true := by
  decide +kernel
theorem test_rnd_zero (s : State) : s.randomDraw 0 = 0 := by
  simp [State.randomDraw, Nat.mod_one]

/-! ### Display (2.6) -/

theorem test_cls : stepOf (State.reset.setVram (List.replicate 2048 true)) 0x0230 (fun t => lit t == 0 && t.vram.length == 2048) = true := by
  decide +kernel
theorem test_hires : stepOf State.reset 0x00FF (fun t => t.hires && t.vram.length == 8192 && lit t == 0) = true := by decide +kernel
theorem test_lores :
    stepOf ((State.reset.setHires true).setVram (List.replicate 8192 true)) 0x00FE
      (fun t => !t.hires && t.vram.length == 2048 && lit t == 0) = true := by decide +kernel
theorem test_scd : stepOf (onePixel 5 0) 0x00C3 (fun t => px t 5 3 && !px t 5 0) = true := by decide +kernel
/-- A row leaves through the bottom: 8x4, two rows down. -/
theorem test_scd_small :
    scrollDown (List.replicate 3 true ++ List.replicate 13 false ++ List.replicate 16 true) 8 4 2 =
      List.replicate 16 false ++ List.replicate 3 true ++ List.replicate 13 false := by decide +kernel
theorem test_scr : stepOf (onePixel 0 1) 0x00FB (fun t => px t 4 1 && !px t 0 1) = true := by decide +kernel
/-- Each row by itself: what leaves on the right does not enter the next row. -/
theorem test_scr_small :
    scrollRight ([true, true, false, false, false, false, true, true] ++ List.replicate 8 false) 8 2 =
      [false, false, false, false, true, true, false, false] ++ List.replicate 8 false := by decide +kernel
theorem test_scl : stepOf (onePixel 63 2) 0x00FC (fun t => px t 59 2 && !px t 63 2) = true := by decide +kernel
theorem test_scl_small :
    scrollLeft (List.replicate 8 false ++ [true, true, false, false, false, true, true, false]) 8 2 =
      List.replicate 8 false ++ [false, true, true, false, false, false, false, false] := by decide +kernel
/-- The origin reads the old `VF`. -/
theorem test_drw_vf_origin :
    stepOf (((withV [(15, 5), (0, 7)]).writeRun 0x300 [0x80]).setI 0x300) 0xDF01
      (fun t => px t 5 7 && lit t == 1 && t.reg 15 == 0) = true := by decide +kernel
/-- Clipping: three pixels are left of `FF 81 FF` at (62, 30). -/
theorem test_drw_clips :
    stepOf (((withV [(0, 62), (1, 30)]).writeRun 0x300 [0xFF, 0x81, 0xFF]).setI 0x300) 0xD013
      (fun t => px t 62 30 && px t 63 30 && px t 62 31 && lit t == 3 && t.reg 15 == 0) = true := by decide +kernel
/-- Rows off the bottom count, also for a sprite of zeros. -/
theorem test_drw16_counts :
    stepOf ((withV [(1, 31)]).setI 0x300) 0xD010 (fun t => t.reg 15 == 15 && t.reg 0 == 0) = true := by decide +kernel
/-- 128x64, the left byte first, the right edge skips and does not count. -/
theorem test_drw16_edge :
    stepOf ((((withV [(0, 120)]).setHires true).setVram (blankVram 128 64)).writeRun 0x300 [0x80, 0x01] |>.setI 0x300) 0xD010
      (fun t => px t 120 0 && lit t == 1 && t.reg 15 == 0) = true := by decide +kernel

/-! ### The scheduler (2.7) -/

/-- Under `display_wait` a draw ends the tick, with the timer update. -/
theorem test_display_wait :
    stepOf (quirky { resetQuirks with displayWait := true } (State.reset.setDt 5)) 0xD011 (fun t => t.acc == none && t.dt == 4) = true := by
  decide +kernel
/-- A breakpoint at the new `pc` halts with no timer update. -/
theorem test_breakpoint :
    stepOf ((State.reset.setDt 5).setBreakpoints [0x202]) 0x6001 (fun t => t.halted && t.dt == 5 && t.acc == none) = true := by
  decide +kernel
/-- A budget of 8 (48001 / 6000, rounded down) is one step, and the tick's end counts the timer. -/
theorem test_budget : stepOf ((State.reset.setDt 5).setClockSpeed 48001) 0x7001 (fun t => t.acc == none && t.dt == 4 && t.reg 0 == 1) = true := by
  decide +kernel

/-! ### Witnesses: states and operands that meet the statements' hypotheses, each clause at a boundary value -/

/-- The reset state with `w` where the next step fetches. -/
def withWord (w : Word) : State := State.reset.placeWord w

theorem witness_DecodeEncodeRoundTrip :
    (Instr.jpV 0xB 0xBCD).wellFormed = true ∧ (Instr.sys 0x0D0).wellFormed = true ∧ (Instr.drw 0 1 1).wellFormed = true := by decide

theorem witness_EncodeParseRoundTrip :
    (parse 0xD011 = .ok (.drw 0 1 1) ∧ (0xD011 : Word) ≠ 0x0230) ∧ parse 0x0230 = .ok .cls := by decide

/-- The ends of each row of the table of illegal words, and their legal neighbours. -/
theorem witness_IllegalWordsAreExactlyTheTable :
    illegalWord 0x5121 ∧ illegalWord 0x512F ∧ illegalWord 0x8128 ∧ illegalWord 0x812D ∧ illegalWord 0x812F ∧
    illegalWord 0x9121 ∧ illegalWord 0xE19D ∧ illegalWord 0xE1A2 ∧ illegalWord 0xF106 ∧ illegalWord 0xF186 ∧
    ¬ illegalWord 0x5120 ∧ ¬ illegalWord 0x8127 ∧ ¬ illegalWord 0x812E ∧ ¬ illegalWord 0x9120 ∧
    ¬ illegalWord 0xE19E ∧ ¬ illegalWord 0xE1A1 ∧ ¬ illegalWord 0xF107 ∧ ¬ illegalWord 0xF185 ∧
    ¬ illegalWord 0x0000 ∧ ¬ illegalWord 0x4FFF := by
  refine ⟨?_, ?_, ?_, ?_, ?_, ?_, ?_, ?_, ?_, ?_, ?_, ?_, ?_, ?_, ?_, ?_, ?_, ?_, ?_, ?_⟩ <;> (unfold illegalWord; decide)

/-- The start of a tick and a running tick. -/
theorem witness_atPass : atPass (withWord 0x6001) 0 ∧ atPass ((withWord 0x6001).setAcc (some 792)) 792 := by
  refine ⟨⟨by decide +kernel, .inr ⟨rfl, rfl, rfl, by decide +kernel⟩⟩, by decide +kernel, .inl rfl⟩

/-- `SYS`: the clause of a fault. -/
theorem witness_StepRunsDecodedInstruction_fault :
    ∃ t : State, atPass (withWord 0x0000) 0 ∧ fetches (withWord 0x0000) (.sys 0) ∧
      exec (.sys 0) { withWord 0x0000 with pc := (withWord 0x0000).pc + 2 } = .next t ∧ t.fault ≠ none :=
  ⟨_, ⟨by decide +kernel, .inr ⟨rfl, rfl, rfl, by decide +kernel⟩⟩, by unfold fetches; decide +kernel, rfl, by decide +kernel⟩

/-- The clause of a breakpoint. -/
theorem witness_StepRunsDecodedInstruction_breakpoint :
    ∃ s t : State, atPass s 0 ∧ fetches s (.ldImm 0 1) ∧ exec (.ldImm 0 1) { s with pc := s.pc + 2 } = .next t ∧ t.fault = none ∧
      t.pc ∈ t.breakpoints :=
  ⟨(withWord 0x6001).setBreakpoints [0x202], _, ⟨by decide +kernel, .inr ⟨rfl, rfl, rfl, by decide +kernel⟩⟩,
    by unfold fetches; decide +kernel, rfl, by decide +kernel, by decide +kernel⟩

/-- The clause of the end of a tick: by a self-jump, by a draw under `display_wait`, and by the budget at its last cycle. -/
theorem witness_StepRunsDecodedInstruction_end :
    (∃ t : State, atPass (withWord 0x1200) 0 ∧ fetches (withWord 0x1200) (.jp 0x200) ∧
      exec (.jp 0x200) { withWord 0x1200 with pc := (withWord 0x1200).pc + 2 } = .next t ∧ t.fault = none ∧
      t.pc ∉ t.breakpoints ∧ t.running = false) ∧
    (∃ s t : State, s = quirky { resetQuirks with displayWait := true } (withWord 0xD010) ∧ atPass s 0 ∧ fetches s (.drw16 0 1) ∧
      exec (.drw16 0 1) { s with pc := s.pc + 2 } = .next t ∧ isDraw (.drw16 0 1) = true ∧ s.quirks.displayWait = true ∧
      t.fault = none ∧ t.pc ∉ t.breakpoints ∧ t.clockSpeed / 6000 ≤ s.clockSpeed / 6000) ∧
    (∃ s t : State, s = (withWord 0x6001).setAcc (some 792) ∧ atPass s 792 ∧ fetches s (.ldImm 0 1) ∧
      exec (.ldImm 0 1) { s with pc := s.pc + 2 } = .next t ∧ t.fault = none ∧ t.pc ∉ t.breakpoints ∧
      t.clockSpeed / 6000 ≤ 792 + 8) := by
  refine ⟨⟨_, ⟨by decide +kernel, .inr ⟨rfl, rfl, rfl, by decide +kernel⟩⟩, by unfold fetches; decide +kernel, rfl, rfl,
    by decide +kernel, by decide +kernel⟩, ⟨_, _, rfl, ⟨by decide +kernel, .inr ⟨rfl, rfl, rfl, by decide +kernel⟩⟩,
    by unfold fetches; decide +kernel, rfl, rfl, rfl, rfl, by decide +kernel, by decide +kernel⟩,
    ⟨_, _, rfl, ⟨by decide +kernel, .inl rfl⟩, by unfold fetches; decide +kernel, rfl, rfl, by decide +kernel, by decide +kernel⟩⟩

/-- The clause of a tick that goes on, one cycle under the budget. -/
theorem witness_StepRunsDecodedInstruction_on :
    ∃ s t : State, s = (withWord 0x6001).setAcc (some 791) ∧ atPass s 791 ∧ fetches s (.ldImm 0 1) ∧
      exec (.ldImm 0 1) { s with pc := s.pc + 2 } = .next t ∧ t.fault = none ∧ t.pc ∉ t.breakpoints ∧ t.running = true ∧
      791 + 8 < t.clockSpeed / 6000 :=
  ⟨_, _, rfl, ⟨by decide +kernel, .inl rfl⟩, by unfold fetches; decide +kernel, rfl, rfl, by decide +kernel, rfl, by decide +kernel⟩

theorem witness_FaultingStepsWriteOnlyFault :
    (atPass (withWord 0x5121) 0 ∧ fetchesNothing (withWord 0x5121)) ∧
    (atPass (withWord 0x0FFF) 0 ∧ fetches (withWord 0x0FFF) (.sys 0xFFF)) ∧
    (∃ s : State, atPass s 0 ∧ fetches s (.call 0x300) ∧ s.stackDepth = some 0 ∧ 0 ≤ s.stack.length) ∧
    ∃ s : State, atPass s 0 ∧ fetches s (.call 0x300) ∧ s.stackDepth = some 2 ∧ 2 ≤ s.stack.length :=
  ⟨⟨⟨by decide +kernel, .inr ⟨rfl, rfl, rfl, by decide +kernel⟩⟩, .noRow 0x5121, by decide +kernel⟩,
    ⟨⟨by decide +kernel, .inr ⟨rfl, rfl, rfl, by decide +kernel⟩⟩, by unfold fetches; decide +kernel⟩,
    ⟨{ withWord 0x2300 with stackDepth := some 0 }, ⟨by decide +kernel, .inr ⟨rfl, rfl, rfl, by decide +kernel⟩⟩,
      by unfold fetches; decide +kernel, rfl, by decide⟩,
    ⟨{ withWord 0x2300 with stack := [1, 2], stackDepth := some 2 }, ⟨by decide +kernel, .inr ⟨rfl, rfl, rfl, by decide +kernel⟩⟩,
      by unfold fetches; decide +kernel, rfl, by decide⟩⟩

theorem witness_TicksThatRunNoStep :
    (∃ s : State, s.acc = none ∧ s.running = false ∧ s.hostCalls = []) ∧
    (∃ s : State, s.acc = none ∧ s.halted = true ∧ s.hostCalls = [.tick, .resume]) ∧
    (∃ s : State, s.acc = none ∧ s.fault ≠ none ∧ s.hostCalls = []) ∧
    ∃ s : State, s.acc = none ∧ s.ready = true ∧ s.hostCalls = [] ∧ s.clockSpeed = 5999 :=
  ⟨⟨State.reset.setRunning false, rfl, rfl, rfl⟩, ⟨(State.reset.setHalted true).setHostCalls [.tick, .resume], rfl, rfl, rfl⟩,
    ⟨State.reset.setFault (some (.unmodelledSys 0x200 0)), rfl, by decide +kernel, rfl⟩,
    ⟨State.reset.setClockSpeed 5999, rfl, rfl, rfl, rfl⟩⟩

theorem witness_StepsOfATickAreTheSpecsTick : State.reset.acc = none ∧ State.reset.hostCalls = [] := ⟨rfl, rfl⟩

/-- A budget of 9 cycles is two steps. -/
theorem witness_OrdinaryTickRunsCeilingOfBudgetSteps :
    ∃ s : State, s.acc = none ∧ s.hostCalls = [] ∧ s.ready = true ∧ (s.budget + 7) / 8 = 2 ∧
      ∀ k u, k < (s.budget + 7) / 8 → reaches k s u →
        ∃ i t, fetches u i ∧ ¬ (isDraw i = true ∧ u.quirks.displayWait = true) ∧ exec i { u with pc := u.pc + 2 } = .next t ∧
          t.fault = none ∧ t.running = true ∧ t.pc ∉ t.breakpoints := by
  let s : State := (State.reset.writeRun 0x200 [0x60, 0x01, 0x61, 0x02]).setClockSpeed 54000
  have hs : step s = .next (((s.setPc (s.pc + 2)).setV 0 1).setAcc (some (0 + stepCost s))) := by
    rw [step_idle rfl rfl, beginTick_budget (by decide +kernel) (by decide +kernel),
      runCycle_of_next (cpuStep_of_ok (i := .ldImm 0 1) (by decide +kernel))]
    unfold State.afterStep
    rw [if_neg (by decide +kernel), if_neg (by decide +kernel), if_neg (by decide +kernel)]
  refine ⟨s, rfl, rfl, rfl, by decide +kernel, fun k u hk hu => ?_⟩
  have hk2 : k < 2 := lt_of_lt_of_eq hk (by decide +kernel)
  obtain rfl | rfl : k = 0 ∨ k = 1 := by omega
  · cases hu
    exact ⟨.ldImm 0 1, _, by unfold fetches; decide +kernel, by decide, rfl, rfl, rfl, by decide +kernel⟩
  · unfold reaches at hu
    rw [run_succ_of_next 0 hs] at hu
    cases hu
    exact ⟨.ldImm 1 2, _, by unfold fetches; decide +kernel, by decide, rfl, rfl, rfl, by decide +kernel⟩

theorem steps_ldImm : ∃ t, step (withWord 0x6001) = .next t :=
  ⟨_, (step_idle rfl rfl).trans ((beginTick_budget (by decide +kernel) (by decide +kernel)).trans
    (runCycle_of_next (cpuStep_of_ok (i := .ldImm 0 1) (by decide +kernel))))⟩

/-- The first step, and the last pass the budget lets a running tick begin. -/
theorem witness_ListedTickIsTheImpliedTick :
    (∃ s t : State, s.acc = none ∧ step { s with hostCalls := [] } = .next t) ∧
    ∃ s t : State, s.acc = some 799 ∧ s.budget = 800 ∧ step { s with hostCalls := [] } = .next t := by
  obtain ⟨t, h⟩ := steps_ldImm
  exact ⟨⟨withWord 0x6001, t, rfl, h⟩, (withWord 0x6001).setAcc (some 799), _, rfl, by decide +kernel,
    (step_in_tick rfl).trans ((continueTick_ready 799 (by decide +kernel)).trans
      (runCycle_of_next (cpuStep_of_ok (i := .ldImm 0 1) (by decide +kernel))))⟩

/-- A sound state that takes a step; also for `ConfigurationNeverChanges` and `HiresDrawFlagHasNoEffect`. -/
theorem witness_EveryStepKeepsTheMachineSound : ∃ s t : State, s.sound = true ∧ stepsTo s t := by
  obtain ⟨t, h⟩ := steps_ldImm
  exact ⟨withWord 0x6001, t, by decide +kernel, h⟩

/-- An instruction for each clause: the pieces of state that one writes. -/
theorem witness_EachPieceOfStateHasItsWriters :
    (∃ t : State, exec (.jp 5) State.reset = .next t ∧ t.pc ≠ State.reset.pc) ∧
    (∃ t : State, exec (.ldImm 0 5) State.reset = .next t ∧ t.v ≠ State.reset.v) ∧
    (∃ t : State, exec (.ldI 5) State.reset = .next t ∧ t.i ≠ State.reset.i) ∧
    (∃ t : State, exec (.call 5) State.reset = .next t ∧ t.stack ≠ State.reset.stack) ∧
    (∃ s t : State, exec (.ldDtVx 0) s = .next t ∧ t.dt ≠ s.dt) ∧ (∃ s t : State, exec (.ldStVx 0) s = .next t ∧ t.st ≠ s.st) ∧
    (∃ s t : State, exec (.save 0) s = .next t ∧ t.flags ≠ s.flags) ∧
    (∃ s t : State, exec (.jp 0x1FE) s = .next t ∧ t.running ≠ s.running) ∧
    (∃ s t : State, exec .hires s = .next t ∧ t.hires ≠ s.hires ∧ t.vram ≠ s.vram) ∧
    (∃ s t : State, exec (.ldStore 0) s = .next t ∧ t.mem ≠ s.mem) ∧ (∃ s t : State, exec (.sys 0) s = .next t ∧ t.fault ≠ s.fault) ∧
    ∃ s t : State, exec (.rnd 0 1) s = .next t ∧ t.rndCount ≠ s.rndCount :=
  ⟨⟨_, rfl, by decide +kernel⟩, ⟨_, rfl, by decide +kernel⟩,
    ⟨_, rfl, by decide +kernel⟩, ⟨_, rfl, by decide +kernel⟩, ⟨withV [(0, 1)], _, rfl, by decide +kernel⟩,
    ⟨withV [(0, 1)], _, rfl, by decide +kernel⟩, ⟨withV [(0, 1)], _, rfl, by decide +kernel⟩,
    ⟨State.reset, _, rfl, by decide +kernel⟩,
    ⟨State.reset, _, rfl, by decide +kernel, fun h => absurd (congrArg List.length h) (by decide +kernel)⟩,
    ⟨withV [(0, 1)], _, rfl, by decide +kernel⟩, ⟨State.reset, _, rfl, by decide +kernel⟩, ⟨State.reset, _, rfl, by decide +kernel⟩⟩

theorem witness_OnlyDestinationsAndFlagsAreWritten :
    (∃ t : State, exec (.addReg 1 2) State.reset = .next t) ∧ writesReg (.addReg 1 2) 2 = false ∧ writesReg (.ldLoad 3) 4 = false ∧
      writesReg (.load 15) 8 = false := ⟨⟨_, rfl⟩, by decide⟩

/-- `JP 0x1FE` at 0x1FE, with `pc` already advanced to 0x200. -/
theorem witness_TerminationIsASelfJumpAndFinal :
    (∃ s t : State, s.running = false ∧ stepsTo s t) ∧
    ∃ t : State, exec (.jp 0x1FE) State.reset = .next t ∧ State.reset.running = true ∧ t.running = false := by
  exact ⟨⟨State.reset.setRunning false, _, rfl, (step_idle rfl rfl).trans (beginTick_notReady rfl)⟩, _, rfl, rfl,
    by decide +kernel⟩

theorem witness_FaultIsFinal :
    ∃ (s t : State) (f : Fault), s.fault = some f ∧ s.acc = none ∧ s.hostCalls = [] ∧ stepsTo s t := by
  exact ⟨State.reset.setFault (some (.unmodelledSys 0x200 0)), _, _, rfl, rfl, rfl,
    (step_idle rfl rfl).trans (beginTick_notReady rfl)⟩

/-- Each clause: a key set, a breakpoint added, `HALTED` cleared. -/
theorem witness_HostStateChangesOnlyBetweenTicks :
    (∃ s t : State, stepsTo s t ∧ t.keys ≠ s.keys) ∧ (∃ s t : State, stepsTo s t ∧ t.breakpoints ≠ s.breakpoints) ∧
    ∃ s t : State, stepsTo s t ∧ s.halted = true ∧ t.halted = false :=
  ⟨⟨State.reset.setHostCalls [.keydown 15], _, rfl, by decide +kernel⟩,
    ⟨State.reset.setHostCalls [.setBreakpoint 0x202], _, rfl, by decide +kernel⟩,
    ⟨(State.reset.setHalted true).setHostCalls [.resume], _, rfl, rfl, rfl⟩⟩

theorem witness_InstructionsCannotObserveTheScheduler : ∃ t : State, exec (.ldVxK 0) State.reset = .next t := ⟨_, rfl⟩

theorem witness_TickBeforeLoadingFaultsOnSys : (6000 : Nat) ≤ 6000 := le_rfl

/-- Lengths 0xE00 and 0xE01, the boundary. -/
theorem witness_LoadProgramWritesItsBytesOnly :
    (∃ (s : State) (bytes : List Byte), s.sound = true ∧ s.acc = none ∧ s.hostCalls = [.loadProgram bytes] ∧ bytes.length = 0xE00) ∧
    ∃ (s : State) (bytes : List Byte), s.sound = true ∧ s.acc = none ∧ s.hostCalls = [.loadProgram bytes] ∧ bytes.length = 0xE01 :=
  ⟨⟨State.reset.setHostCalls [.loadProgram (List.replicate 0xE00 1)], _, by decide +kernel, rfl, rfl, List.length_replicate⟩,
    ⟨State.reset.setHostCalls [.loadProgram (List.replicate 0xE01 1)], _, by decide +kernel, rfl, rfl, List.length_replicate⟩⟩

/-- Keys 15 and 16, both ways. -/
theorem witness_KeyTransactionsSetOneKey :
    (∀ k ∈ [15, 16], ∀ held : Bool, ∃ s : State, s.acc = none ∧
      s.hostCalls = (if held then .keydown k else .keyup k) :: []) ∧ 15 < 16 ∧ 16 ≤ 16 :=
  ⟨fun k _ held => ⟨State.reset.setHostCalls [if held then .keydown k else .keyup k], rfl, rfl⟩, by decide⟩

theorem witness_BreakpointTransactionsEditTheSet (a : Word) :
    (∃ s : State, s.acc = none ∧ s.hostCalls = [.setBreakpoint a] ∧ a ∈ s.breakpoints) ∧
    (∃ s : State, s.acc = none ∧ s.hostCalls = [.removeBreakpoint a] ∧ a ∈ s.breakpoints ∧ s.halted = true) ∧
    ∃ s : State, s.acc = none ∧ s.hostCalls = [.resume] ∧ s.halted = true :=
  ⟨⟨(State.reset.setBreakpoints [a]).setHostCalls [.setBreakpoint a], rfl, rfl, List.mem_singleton.2 rfl⟩,
    ⟨((State.reset.setBreakpoints [a]).setHostCalls [.removeBreakpoint a]).setHalted true, rfl, rfl, List.mem_singleton.2 rfl, rfl⟩,
    ⟨(State.reset.setHostCalls [.resume]).setHalted true, rfl, rfl, rfl⟩⟩

/-- The addresses 0x0FFF and 0x1000, and a store at the end of memory. -/
theorem witness_EveryAddressIsModulo4096 :
    Memory.wf State.reset.mem = true ∧ (0xFFF : Nat) < 4096 ∧ 0x1000 % 4096 = 0 ∧
    ∃ t : State, exec (.ldStore 15) (State.reset.setI 0xFFF) = .next t := ⟨rfl, by decide, by decide, _, rfl⟩

theorem witness_CanonicalMemoriesThatReadAlikeAreEqual :
    Memory.wf [(0x200, 0x60)] = true ∧ ∀ a, a < 4096 → Memory.read [(0x200, 0x60)] a = Memory.read [(0x200, 0x60)] a :=
  ⟨by decide +kernel, fun _ _ => rfl⟩

theorem witness_FetchIsBigEndianModulo4096 : ∃ s : State, s.pc.toNat = 0x1FFF ∧ s.pc.toNat % 4096 = 0xFFF :=
  ⟨State.reset.setPc 0x1FFF, rfl, rfl⟩

/-- The store of V0, V1 at `I` puts both bytes of the next instruction; `pc` is the next instruction's address. -/
theorem witness_FetchSeesTheStoreBeforeIt :
    ∃ (s t : State), s.sound = true ∧ exec (.ldStore 1) s = .next t ∧ 0 + 1 ≤ (1 : Reg).val ∧
      s.pc.toNat % 4096 = (s.i.toNat + 0) % 4096 :=
  ⟨State.reset.setI 0x200, _, by decide +kernel, rfl, by decide, rfl⟩

theorem witness_JumpSetsPcAndStopsOnItself :
    (0x200 : Addr).toNat ≠ (State.reset.pc - 2).toNat ∧ (0x1FE : Addr).toNat = (State.reset.pc - 2).toNat := by decide

theorem witness_CallPushesAndJumps :
    State.reset.stackDepth = none ∧ (∃ s : State, s.stackDepth = some 1 ∧ s.stack.length < 1) ∧
    ∃ s : State, s.stackDepth = some 1 ∧ 1 ≤ s.stack.length :=
  ⟨rfl, ⟨{ State.reset with stackDepth := some 1 }, rfl, by decide⟩, ⟨{ State.reset with stackDepth := some 1, stack := [0x202] }, rfl, by decide⟩⟩

theorem witness_ReturnPopsOrGoesToZero :
    (∃ s : State, s.stack = [] ++ [0x202]) ∧ State.reset.stack = [] := ⟨⟨State.reset.setStack [0x202], rfl⟩, rfl⟩

theorem witness_LogicClearsVfUnderTheQuirk (x y : Reg) :
    (Instr.orReg x y = .orReg x y ∧ or = or) ∧ (Instr.andReg x y = .andReg x y ∧ and = and) ∧
      (Instr.xorReg x y = .xorReg x y ∧ xor = xor) := ⟨⟨rfl, rfl⟩, ⟨rfl, rfl⟩, rfl, rfl⟩

theorem witness_ShiftsSetTheBitShiftedOut (x y : Reg) :
    State.reset.reg y = (if State.reset.quirks.shifting then State.reset.reg x else State.reset.reg y) := rfl

/-- The ends of the three ranges of addresses. -/
theorem witness_ConstructionMemoryHoldsTheFonts :
    (0x04F < 4096 ∧ 0x04F < 0x050) ∧ (0x050 ≤ 0x050 ∧ 0x050 < 0x0F0) ∧ (0x050 ≤ 0x0EF ∧ 0x0EF < 0x0F0) ∧
      (0x0F0 ≤ 0x0F0 ∧ 0x0F0 ≤ 0xFFF ∧ 0xFFF < 4096) := by decide

/-- The last pixel of each mode, for the statements about every pixel on screen. -/
theorem witness_pixels :
    (63 < State.reset.width ∧ 31 < State.reset.height) ∧
      (127 < (State.reset.setHires true).width ∧ 63 < (State.reset.setHires true).height) := by decide +kernel

theorem witness_DecimalDigitsAreStored : ∃ s : State, s.sound = true ∧ s.i.toNat = 0xFFE ∧ s.reg 0 = 255 :=
  ⟨(withV [(0, 255)]).setI 0xFFE, by decide +kernel, rfl, by decide +kernel⟩

/-- A sound state with `I` at the end of memory. -/
theorem witness_StoreRegistersAtIndex : ∃ s : State, s.sound = true ∧ s.i.toNat = 0xFFF :=
  ⟨State.reset.setI 0xFFF, by decide +kernel, rfl⟩

theorem witness_SaveThenLoadRestores (v : Vector Byte 16) :
    ∃ t u : State, exec (.save 15) State.reset = .next t ∧ exec (.load 15) { t with v := v } = .next u := ⟨_, _, rfl, rfl⟩

/-- The low nibble, from a register value above 15. -/
theorem witness_KeySkipsTestTheLowNibble : ∃ (s : State) (k : Key), k.val = (s.reg 0 &&& 0x0F).toNat ∧ s.reg 0 = 0x1A :=
  ⟨withV [(0, 0x1A)], 10, by decide +kernel, by decide +kernel⟩

theorem witness_KeyWaitTakesTheLeastKey :
    (∀ k : Key, State.reset.keys[k] = false) ∧
    ∃ s : State, s.keys[(3 : Key)] = true ∧ ∀ j : Key, j < 3 → s.keys[j] = false :=
  ⟨by decide +kernel, (State.reset.setKey 3 true).setKey 9 true, by decide +kernel, by decide +kernel⟩

/-- A draw that hits, one that misses, at the origin. -/
theorem witness_DrawXorsTheSprite :
    (∃ s : State, s.sound = true ∧ 0 < s.width ∧ 0 < s.height ∧ covers8 s 0 1 1 0 0 ∧ pixelAt s.vram s.width 0 0 = true) ∧
    ∃ s : State, s.sound = true ∧ covers8 s 0 1 1 0 0 ∧
      ∀ px py, px < s.width → py < s.height → covers8 s 0 1 1 px py → pixelAt s.vram s.width px py = false := by
  refine ⟨⟨onePixel 0 0, by decide +kernel, by decide, by decide, ⟨0, 0, by decide, by decide, by decide +kernel, ?_⟩, by decide +kernel⟩,
    State.reset, by decide +kernel, ⟨0, 0, by decide, by decide, by decide +kernel, ?_⟩, fun px py _ _ _ => ?_⟩
  · exact ⟨by decide +kernel, by decide +kernel⟩
  · exact ⟨by decide +kernel, by decide +kernel⟩
  · exact pixelAt_blankVram 64 32 _ px py

theorem witness_Draw16XorsAndCountsRows :
    (∃ s : State, s.sound = true ∧ covers16 s 0 1 0 31 ∧ pixelAt s.vram s.width 0 31 = true ∧ rowsOff s 1 = 15) ∧
    ∃ s : State, s.sound = true ∧ covers16 s 0 1 0 31 ∧ rowsOff s 1 = 15 ∧
      ∀ px py, px < s.width → py < s.height → covers16 s 0 1 px py → pixelAt s.vram s.width px py = false := by
  refine ⟨⟨(onePixel 0 31).setV 1 31, by decide +kernel, ⟨0, 0, by decide, by decide, by decide +kernel, ?_⟩, by decide +kernel, ?_⟩,
    State.reset.setV 1 31, by decide +kernel, ⟨0, 0, by decide, by decide, by decide +kernel, ?_⟩, ?_, fun px py _ _ _ => ?_⟩
  · exact ⟨by decide +kernel, by decide +kernel⟩
  · decide +kernel
  · exact ⟨by decide +kernel, by decide +kernel⟩
  · decide +kernel
  · exact pixelAt_blankVram 64 32 _ px py

end Sys2Proof.Tests
end

section
/-! Memory (20_memory.md): a read after one write, what an instruction can do to the state, and the statement R61. -/

namespace Sys2Proof.Machine

/-- A read after a write, at any address (20_memory.md R61, R71). -/
theorem Memory.read_write {m : List Host.Cell} (a c : Nat) (b : Byte) (h : Memory.wf m = true) :
    Memory.read (Memory.write m a b) c = if c = a then b else Memory.read m c := by
  split_ifs with hc
  · rw [hc]
    exact Memory.read_write_same a b h
  · exact Memory.read_write_other m b hc

/-- All that an instruction can do: `SYS` raises, `CALL` on a full stack raises, and every other execution keeps `KEYS`, the
breakpoints, `HALTED`, `QUIRKS`, the clock speed, `FAULT`, `ACC`, STACK_DEPTH and the host's transactions. -/
theorem exec_cases {i : Instr} {s t : State} (h : exec i s = .next t) :
    (∃ addr, i = .sys addr ∧ t = s.raise (.unmodelledSys s.pc0 addr) s.pc0) ∨
    (∃ addr, i = .call addr ∧ s.stackFull = true ∧ t = s.raise (.stackOverflow s.pc0) s.pc0) ∨
    t = { s with v := t.v, i := t.i, pc := t.pc, stack := t.stack, dt := t.dt, st := t.st, flags := t.flags,
                 running := t.running, hires := t.hires, vram := t.vram, mem := t.mem, rndCount := t.rndCount } := by
  cases i with
  | sys addr =>
    cases h
    exact .inl ⟨addr, rfl, rfl⟩
  | call addr =>
    simp only [exec, execCall] at h
    split at h
    next hfull =>
      cases h
      exact .inr (.inl ⟨addr, rfl, hfull, rfl⟩)
    next =>
      cases h
      exact .inr (.inr rfl)
  | ret =>
    simp only [exec, execRet] at h
    split at h <;> cases h <;> exact .inr (.inr rfl)
  | ldVxK x =>
    simp only [exec, execLdVxK] at h
    split at h <;> cases h <;> exact .inr (.inr rfl)
  | seImm _ _ | sneImm _ _ | seReg _ _ | sneReg _ _ | skp _ | sknp _ =>
    cases h
    rw [State.skipIf_eq]
    exact .inr (.inr rfl)
  | orReg _ _ | andReg _ _ | xorReg _ _ =>
    cases h
    rw [State.setLogic_eq]
    exact .inr (.inr rfl)
  | ldStore _ | ldLoad _ =>
    cases h
    rw [State.postAdvanceIndex_eq]
    exact .inr (.inr rfl)
  | cls | scd _ | scr | scl | lores | hires | jp _ | ldImm _ _ | addImm _ _ | ldReg _ _ | addReg _ _ | sub _ _ | shr _ _
  | subn _ _ | shl _ _ | ldI _ | jpV _ _ | rnd _ _ | drw16 _ _ | drw _ _ _ | ldVxDt _ | ldDtVx _ | ldStVx _ | addI _
  | ldF _ | ldHF _ | ldB _ | save _ | load _ =>
    cases h
    exact .inr (.inr rfl)

/-- Only `SYS` and `CALL` record a fault (60_exceptions.md R243, R244). -/
theorem exec_fault {i : Instr} {s t : State} (h : exec i s = .next t) (hsys : ∀ addr, i ≠ .sys addr)
    (hcall : ∀ addr, i ≠ .call addr) : t.fault = s.fault := by
  obtain ⟨addr, rfl, -⟩ | ⟨addr, rfl, -⟩ | hframe := exec_cases h
  · exact absurd rfl (hsys addr)
  · exact absurd rfl (hcall addr)
  · rw [hframe]

end Sys2Proof.Machine

namespace Sys2Proof.Proofs

open Sys2Proof.Machine

/-- Settles O29: a read is one at `a % memSize` by definition, a write is read back there and nowhere else, and `exec_cases`
lets only `SYS` and `CALL` raise. -/
theorem everyAddressIsModulo4096 : Obligations.EveryAddressIsModulo4096 := by
  unfold Obligations.EveryAddressIsModulo4096
  refine ⟨fun s a => rfl, fun s a c b hwf _ => ?_, fun i s t => exec_fault⟩
  exact Memory.read_write (a % memSize) c b hwf

end Sys2Proof.Proofs
end

section
/-! Encoding (30_encoding.md): the two words of `CLS` (R93) and the statement about what `CLS` does (44_display.md R212). -/

namespace Sys2Proof

/-- The word the opcode map gives `CLS` (30_encoding.md R91). -/
theorem parse_00E0 : parse 0x00E0 = .ok .cls := by decide

/-- The second word of `CLS` (30_encoding.md R93). -/
theorem parse_0230 : parse 0x0230 = .ok .cls := by decide

end Sys2Proof

namespace Sys2Proof.Machine

/-- `CLS` stores a blank buffer of the current mode's size and nothing else (44_display.md R212). -/
theorem exec_cls (s : State) : exec .cls s = .next (s.setVram (blankVram s.width s.height)) := rfl

end Sys2Proof.Machine

namespace Sys2Proof.Proofs

open Sys2Proof.Machine

/-- Settles O55: both words decode to `CLS`, whose new buffer is blank, so it has the mode's size and no pixel set. -/
theorem clearScreenMakesEveryPixelFalse : Obligations.ClearScreenMakesEveryPixelFalse := by
  unfold Obligations.ClearScreenMakesEveryPixelFalse
  refine ⟨parse_0230.trans parse_00E0.symm, parse_00E0, fun s => ⟨_, exec_cls s, rfl, ?size, fun x y _ _ => ?pixel⟩⟩
  case size => exact length_blankVram s.width s.height
  case pixel => exact pixelAt_blankVram s.width s.height s.width x y

end Sys2Proof.Proofs
end

section
/-! Return (40_control_flow.md R122, R123): the number a fetch gives, the bytes of the small font after construction, the two
cases of `RET`, and the statement about them. -/

namespace Sys2Proof

/-- The word the opcode map gives `RET` (30_encoding.md R91). -/
theorem parse_00EE : parse 0x00EE = .ok .ret := by decide

/-- Two bytes read as a big-endian number (20_memory.md R67). -/
theorem toNat_wordOfBytes (hi lo : Byte) : (wordOfBytes hi lo).toNat = hi.toNat * 256 + lo.toNat := by
  simp only [wordOfBytes, BitVec.toNat_ofNat]
  omega

end Sys2Proof

namespace Sys2Proof.Machine

/-- What a fetch reads, as a number (20_memory.md R70). -/
theorem State.toNat_fetch (s : State) :
    s.fetch.toNat = (s.readByte s.pc.toNat).toNat * 256 + (s.readByte (s.pc.toNat + 1)).toNat :=
  toNat_wordOfBytes _ _

/-- Memory lists nothing after construction (20_memory.md R66). -/
theorem State.readByte_construct (q : Quirks) (c a : Nat) :
    (State.construct q c).readByte a = unlistedByte (a % memSize) := rfl

/-- Below the large font an unlisted address reads the small font (20_memory.md R63, R64). -/
theorem unlistedByte_of_lt {a : Nat} (h : a < bigFontBase) : unlistedByte a = smallFont.getD a 0 := if_pos h

/-- `RET` with something on the stack (40_control_flow.md R122). -/
theorem exec_ret_of_stack_append {s : State} {l : List Word} {a : Word} (h : s.stack = l ++ [a]) :
    exec .ret s = .next ((s.setStack l).setPc a) := by
  simp only [exec, execRet, h, List.getLast?_concat, List.dropLast_concat]

/-- `RET` with nothing on the stack (40_control_flow.md R123). -/
theorem exec_ret_of_stack_nil {s : State} (h : s.stack = []) : exec .ret s = .next (s.setPc 0) := by
  simp only [exec, execRet, h, List.getLast?_nil]

end Sys2Proof.Machine

namespace Sys2Proof.Proofs

open Sys2Proof.Machine

/-- Settles O36: the stack's last entry becomes `pc`; without one, `pc` is 0 and the fetch reads the bytes at 0 and 1, which at
reset, as every address below the large font, are the small font's. -/
theorem returnPopsOrGoesToZero : Obligations.ReturnPopsOrGoesToZero := by
  unfold Obligations.ReturnPopsOrGoesToZero
  refine ⟨parse_00EE, fun s l a => exec_ret_of_stack_append, fun s h => ⟨s.setPc 0, exec_ret_of_stack_nil h, rfl, ?fetch⟩,
    fun k hk => ?font⟩
  case fetch => exact (s.setPc 0).toNat_fetch
  case font =>
    have hmod : k % memSize = k := Nat.mod_eq_of_lt (by simp only [memSize]; omega)
    rw [State.reset, State.readByte_construct, hmod]
    exact unlistedByte_of_lt hk

end Sys2Proof.Proofs
end

section
/-! Index loads (42_memory_index.md R172, R174, R176): the three encodings, the numbers the glyph pointers and the decimal digits
stand for, the effect of each instruction, and the statements about them. -/

namespace Sys2Proof

/-- A one-register word with the opcode's fixed fields joined in one number (30_encoding.md R87). -/
theorem ofNat_eq_wordX (o : Nat) (x : Reg) (f : Nat) : BitVec.ofNat 16 (o * 4096 + f + 256 * x.val) = wordX o x f := by
  rw [wordX, Nat.add_right_comm, Nat.mul_comm 256]

/-- The words the opcode map gives `LD F,Vx` (30_encoding.md R91). -/
theorem parse_Fx29 (x : Reg) : parse (BitVec.ofNat 16 (0xF029 + 256 * x.val)) = .ok (.ldF x) :=
  (congrArg parse (ofNat_eq_wordX 0xF x 0x29)).trans (Laws.RoundTrip.ldF x rfl)

/-- The words the opcode map gives `LD HF,Vx` (30_encoding.md R91). -/
theorem parse_Fx30 (x : Reg) : parse (BitVec.ofNat 16 (0xF030 + 256 * x.val)) = .ok (.ldHF x) :=
  (congrArg parse (ofNat_eq_wordX 0xF x 0x30)).trans (Laws.RoundTrip.ldHF x rfl)

/-- The words the opcode map gives `LD B,Vx` (30_encoding.md R91). -/
theorem parse_Fx33 (x : Reg) : parse (BitVec.ofNat 16 (0xF033 + 256 * x.val)) = .ok (.ldB x) :=
  (congrArg parse (ofNat_eq_wordX 0xF x 0x33)).trans (Laws.RoundTrip.ldB x rfl)

end Sys2Proof

namespace Sys2Proof.Machine

/-- A sound state's memory is in its canonical form. -/
theorem State.wf_mem_of_sound {s : State} (h : s.sound = true) : Memory.wf s.mem = true := by
  simp only [State.sound, Bool.and_assoc, Bool.and_eq_true] at h
  exact h.1

/-- No small-font pointer wraps at 16 bits. -/
theorem toNat_smallGlyph (a : Byte) : (smallGlyph a).toNat = 5 * a.toNat := by
  have := a.isLt
  rw [smallGlyph, BitVec.toNat_ofNat]
  omega

/-- No large-font pointer wraps at 16 bits. -/
theorem toNat_bigGlyph (a : Byte) : (bigGlyph a).toNat = 0x050 + 10 * a.toNat := by
  have := a.isLt
  rw [bigGlyph, BitVec.toNat_ofNat, bigFontBase]
  omega

/-- The hundreds, the tens and the ones of a byte are bytes themselves. -/
theorem toNat_decimalDigits (a : Byte) :
    (decimalDigits a).map BitVec.toNat = [a.toNat / 100, a.toNat / 10 % 10, a.toNat % 10] := by
  have := a.isLt
  have hbyte {n : Nat} (hn : n < 10) : (BitVec.ofNat 8 n).toNat = n := by
    rw [BitVec.toNat_ofNat, Nat.mod_eq_of_lt (by omega)]
  simp only [decimalDigits, List.map_cons, List.map_nil]
  rw [hbyte (by omega), hbyte (by omega), hbyte (by omega)]

/-- `LD F,Vx` writes `I` only (42_memory_index.md R172). -/
theorem exec_ldF (x : Reg) (s : State) : exec (.ldF x) s = .next (s.setI (smallGlyph (s.reg x))) := rfl

/-- `LD HF,Vx` writes `I` only (42_memory_index.md R174). -/
theorem exec_ldHF (x : Reg) (s : State) : exec (.ldHF x) s = .next (s.setI (bigGlyph (s.reg x))) := rfl

/-- `LD B,Vx` writes the run of the digits at `I` only (42_memory_index.md R176). -/
theorem exec_ldB (x : Reg) (s : State) :
    exec (.ldB x) s = .next (s.writeRun s.i.toNat (decimalDigits (s.reg x))) := rfl

/-- Digit `k` reads back from the run of digits as a number (42_memory_index.md R176). -/
theorem State.toNat_readByte_writeRun_decimalDigits {s : State} (h : Memory.wf s.mem = true) (i : Nat) (a : Byte) {k : Nat}
    (hk : k < 3) : ((s.writeRun i (decimalDigits a)).readByte (i + k)).toNat =
      [a.toNat / 100, a.toNat / 10 % 10, a.toNat % 10].getD k 0 := by
  have hrun := s.readByte_writeRun_inside i (decimalDigits a) k h hk (show 3 ≤ memSize by decide)
  rw [hrun, ← toNat_decimalDigits]
  exact (List.getD_map (decimalDigits a) 0 BitVec.toNat).symm

end Sys2Proof.Machine

namespace Sys2Proof.Proofs

open Sys2Proof.Machine

/-- Settles O46: `LD B,Vx` is one run of three bytes from `I` on, which reads back digit by digit and leaves every address
outside it alone. -/
theorem decimalDigitsAreStored : Obligations.DecimalDigitsAreStored := by
  unfold Obligations.DecimalDigitsAreStored
  intro s x hs
  have digit {k : Nat} (hk : k < 3) :=
    State.toNat_readByte_writeRun_decimalDigits (State.wf_mem_of_sound hs) s.i.toNat (s.reg x) hk
  refine ⟨parse_Fx33 x, _, exec_ldB x s, rfl, digit (k := 0) (by decide), digit (k := 1) (by decide),
    digit (k := 2) (by decide), fun a ha hout => ?outside⟩
  case outside =>
    have hmod : a % memSize = a := Nat.mod_eq_of_lt ha
    refine s.readByte_writeRun_outside s.i.toNat (decimalDigits (s.reg x)) a fun k hk => ?_
    rw [hmod]
    exact hout k hk

/-- Settles O45: both pointers are products of an unreduced byte that fit 16 bits, so a byte's bound bounds them. -/
theorem glyphPointers : Obligations.GlyphPointers := by
  unfold Obligations.GlyphPointers
  intro s x
  have hbyte := (s.reg x).isLt
  have hsmall := toNat_smallGlyph (s.reg x)
  have hbig := toNat_bigGlyph (s.reg x)
  refine ⟨parse_Fx29 x, parse_Fx30 x, ⟨_, exec_ldF x s, rfl, hsmall, ?small⟩, ⟨_, exec_ldHF x s, rfl, hbig, ?big⟩⟩
  case small =>
    rw [State.setI_i, hsmall]
    omega
  case big =>
    rw [State.setI_i, hbig]
    omega

end Sys2Proof.Proofs
end

section
/-! Sideways scrolls (44_display.md R222, R224): the two encodings, the size and the pixels of a scrolled buffer, the effect of each
instruction, and the statement about them. -/

namespace Sys2Proof

/-- The word the opcode map gives `SCR` (30_encoding.md R91). -/
theorem parse_00FB : parse 0x00FB = .ok .scr := Laws.RoundTrip.scr rfl

/-- The word the opcode map gives `SCL` (30_encoding.md R91). -/
theorem parse_00FC : parse 0x00FC = .ok .scl := Laws.RoundTrip.scl rfl

end Sys2Proof

namespace Sys2Proof.Machine

@[simp] theorem length_scrollRight (old : List Bool) (w h : Nat) : (scrollRight old w h).length = w * h :=
  length_buildVram w h _

@[simp] theorem length_scrollLeft (old : List Bool) (w h : Nat) : (scrollLeft old w h).length = w * h :=
  length_buildVram w h _

/-- Scrolling right, a pixel comes from 4 columns to its left in its own row, or from beyond the edge (44_display.md R222). -/
theorem pixelAt_scrollRight (old : List Bool) {w h x y : Nat} (hx : x < w) (hy : y < h) :
    pixelAt (scrollRight old w h) w x y = if 4 ≤ x then pixelAt old w (x - 4) y else false :=
  pixelAt_buildVram _ hx hy

/-- Scrolling left, a pixel comes from 4 columns to its right in its own row, or from beyond the edge (44_display.md R224). -/
theorem pixelAt_scrollLeft (old : List Bool) {w h x y : Nat} (hx : x < w) (hy : y < h) :
    pixelAt (scrollLeft old w h) w x y = if x + 4 < w then pixelAt old w (x + 4) y else false :=
  pixelAt_buildVram _ hx hy

/-- `SCR` stores the buffer scrolled right and nothing else (44_display.md R222). -/
theorem exec_scr (s : State) : exec .scr s = .next (s.setVram (scrollRight s.vram s.width s.height)) := rfl

/-- `SCL` stores the buffer scrolled left and nothing else (44_display.md R224). -/
theorem exec_scl (s : State) : exec .scl s = .next (s.setVram (scrollLeft s.vram s.width s.height)) := rfl

end Sys2Proof.Machine

namespace Sys2Proof.Proofs

open Sys2Proof.Machine

/-- Settles O58: each instruction stores a buffer built anew at the mode's size, whose pixel `(x, y)` is read from row `y` of the
old one, so nothing is carried into another row. -/
theorem sidewaysScrollsMoveColumns : Obligations.SidewaysScrollsMoveColumns := by
  unfold Obligations.SidewaysScrollsMoveColumns
  refine ⟨parse_00FB, parse_00FC, fun s => ⟨⟨_, exec_scr s, rfl, ?sizeRight, fun x y hx hy => ?pixelRight⟩,
    ⟨_, exec_scl s, rfl, ?sizeLeft, fun x y hx hy => ?pixelLeft⟩⟩⟩
  case sizeRight => exact length_scrollRight s.vram s.width s.height
  case pixelRight => exact pixelAt_scrollRight s.vram hx hy
  case sizeLeft => exact length_scrollLeft s.vram s.width s.height
  case pixelLeft => exact pixelAt_scrollLeft s.vram hx hy

end Sys2Proof.Proofs
end

section
/-! Encoding (30_encoding.md R96, R98): the fields of a word put together again, which words each part of the decoder rejects,
and the statements about `parse` and `encode`. -/

namespace Sys2Proof

/-! ### Fields as numbers -/

theorem fieldO_eq (w : Word) : fieldO w = w.toNat / 4096 := by
  have := w.isLt
  simp only [fieldO, bitField]
  omega

theorem low4_eq (w : Word) : bitField w 0 4 = w.toNat % 16 := by
  simp only [bitField]
  omega

theorem low8_eq (w : Word) : bitField w 0 8 = w.toNat % 256 := by
  simp only [bitField]
  omega

/-! ### A word is made of its fields (R87) -/

section Fields
variable {w : Word} {o f : Nat} (ho : fieldO w = o)
include ho

theorem wordNNN_fields : wordNNN o (fieldNNN w) = w := by
  apply BitVec.eq_of_toNat_eq
  have := w.isLt
  simp only [fieldO, bitField] at ho
  simp only [wordNNN, fieldNNN, bitField, BitVec.toNat_ofNat]
  omega

theorem wordXKK_fields : wordXKK o (fieldX w) (fieldKK w) = w := by
  apply BitVec.eq_of_toNat_eq
  have := w.isLt
  simp only [fieldO, bitField] at ho
  simp only [wordXKK, fieldX, fieldKK, bitField, Fin.val_ofNat, BitVec.toNat_ofNat]
  omega

theorem wordXYN_fields (hf : bitField w 0 4 = f) : wordXYN o (fieldX w) (fieldY w) f = w := by
  apply BitVec.eq_of_toNat_eq
  have := w.isLt
  simp only [fieldO, bitField] at ho hf
  simp only [wordXYN, fieldX, fieldY, bitField, Fin.val_ofNat, BitVec.toNat_ofNat]
  omega

theorem wordX_fields (hf : bitField w 0 8 = f) : wordX o (fieldX w) f = w := by
  apply BitVec.eq_of_toNat_eq
  have := w.isLt
  simp only [fieldO, bitField] at ho hf
  simp only [wordX, fieldX, bitField, Fin.val_ofNat, BitVec.toNat_ofNat]
  omega

theorem fieldX_eq_addrReg : fieldX w = addrReg (fieldNNN w) := by
  have hlt : o < 16 := by have := w.isLt; rw [← ho, fieldO_eq]; omega
  have hx := fieldX_wordNNN o (fieldNNN w) hlt
  rwa [wordNNN_fields ho] at hx
end Fields

theorem val_fieldN (w : Word) : (fieldN w).val = bitField w 0 4 := by
  simp only [fieldN, Fin.val_ofNat, bitField]
  omega

/-! ### Decoding what was encoded -/

open Laws.RoundTrip in
/-- Every well-formed instruction is the parse of its own encoding (R98). -/
theorem parse_encode : ∀ i : Instr, Statement i
  | .cls => cls | .ret => ret | .scd n => scd n | .scr => scr | .scl => scl | .lores => lores | .hires => hires
  | .sys a => sys a | .jp a => jp a | .call a => call a | .seImm x kk => seImm x kk | .sneImm x kk => sneImm x kk
  | .seReg x y => seReg x y | .ldImm x kk => ldImm x kk | .addImm x kk => addImm x kk | .ldReg x y => ldReg x y
  | .orReg x y => orReg x y | .andReg x y => andReg x y | .xorReg x y => xorReg x y | .addReg x y => addReg x y
  | .sub x y => sub x y | .shr x y => shr x y | .subn x y => subn x y | .shl x y => shl x y | .sneReg x y => sneReg x y
  | .ldI a => ldI a | .jpV x a => jpV x a | .rnd x kk => rnd x kk | .drw16 x y => drw16 x y | .drw x y n => drw x y n
  | .skp x => skp x | .sknp x => sknp x | .ldVxDt x => ldVxDt x | .ldVxK x => ldVxK x | .ldDtVx x => ldDtVx x
  | .ldStVx x => ldStVx x | .addI x => addI x | .ldF x => ldF x | .ldHF x => ldHF x | .ldB x => ldB x
  | .ldStore x => ldStore x | .ldLoad x => ldLoad x | .save x => save x | .load x => load x

/-! ### Encoding what was decoded -/

/-- `i` is well-formed and, except that `CLS` has a second word (R93), `w` is its encoding (R98). -/
def Encodes (i : Instr) (w : Word) : Prop := i.wellFormed = true ∧ (w ≠ 0x0230 → encode i = w)

theorem Encodes.intro {i : Instr} {w : Word} (hi : i.wellFormed = true) (hw : encode i = w) : Encodes i w := ⟨hi, fun _ => hw⟩

/-- A 0x0 word that no more specific row claims is a well-formed `SYS` (R94). -/
theorem claimedSysAddr_fieldNNN {w : Word} (ho : fieldO w = 0x0) (hcls : w ≠ 0x00E0) (hcls' : w ≠ 0x0230) (hret : w ≠ 0x00EE)
    (hscd : bitField w 4 12 ≠ 0x00C) (hscr : w ≠ 0x00FB) (hscl : w ≠ 0x00FC) (hlores : w ≠ 0x00FE) (hhires : w ≠ 0x00FF) :
    claimedSysAddr (fieldNNN w) = false := by
  have hw := wordNNN_fields ho
  generalize fieldNNN w = addr at hw
  subst hw
  have other (a : Addr) (ha : wordNNN 0x0 addr ≠ wordNNN 0x0 a) : addr ≠ a := fun e => ha (e ▸ rfl)
  have hrow : bitField (wordNNN 0x0 addr) 4 12 = addr.toNat / 16 := by
    rw [wordNNN, bitField_word _ _ _ (wordNNN_lt 0x0 addr (by decide))]
    have := addr.isLt
    omega
  have hrange : 0x0C0 ≤ addr.toNat → 0x0CF < addr.toNat := by omega
  simpa [claimedSysAddr, and_assoc] using ⟨other 0x0E0 hcls, other 0x230 hcls', other 0x0EE hret, hrange,
    other 0x0FB hscr, other 0x0FC hscl, other 0x0FE hlores, other 0x0FF hhires⟩

theorem encodes_parse0 {w : Word} (ho : fieldO w = 0x0) : Encodes (parse0 w) w := by
  unfold parse0
  split_ifs with hcls hcls' hret hscd hscr hscl hlores hhires
  · exact .intro rfl hcls.symm
  · exact ⟨rfl, fun h => absurd hcls' h⟩
  · exact .intro rfl hret.symm
  · refine .intro rfl (BitVec.eq_of_toNat_eq ?_)
    have := w.isLt
    simp only [bitField] at hscd
    simp only [encode, val_fieldN, bitField, BitVec.toNat_ofNat]
    omega
  · exact .intro rfl hscr.symm
  · exact .intro rfl hscl.symm
  · exact .intro rfl hlores.symm
  · exact .intro rfl hhires.symm
  · refine .intro ?_ (wordNNN_fields ho)
    rw [Instr.wellFormed, claimedSysAddr_fieldNNN ho hcls hcls' hret hscd hscr hscl hlores hhires]
    rfl

theorem encodes_parse8 {w : Word} {i : Instr} (ho : fieldO w = 0x8) (h : parse8 w = .ok i) : Encodes i w := by
  unfold parse8 at h
  split at h <;> cases h
  all_goals exact .intro rfl (wordXYN_fields ho ‹_›)

theorem encodes_parseE {w : Word} {i : Instr} (ho : fieldO w = 0xE) (h : parseE w = .ok i) : Encodes i w := by
  unfold parseE at h
  split at h <;> cases h
  all_goals exact .intro rfl (wordX_fields ho ‹_›)

theorem encodes_parseF {w : Word} {i : Instr} (ho : fieldO w = 0xF) (h : parseF w = .ok i) : Encodes i w := by
  unfold parseF at h
  split at h <;> cases h
  all_goals exact .intro rfl (wordX_fields ho ‹_›)

/-- Whatever a word parses to is encoded by it. -/
theorem encodes_parse {w : Word} {i : Instr} (h : parse w = .ok i) : Encodes i w := by
  unfold parse at h
  split at h
  case h_1 ho => cases h; exact encodes_parse0 ho
  case h_2 ho | h_3 ho | h_11 ho => cases h; exact .intro rfl (wordNNN_fields ho)
  case h_4 ho | h_5 ho | h_7 ho | h_8 ho | h_13 ho => cases h; exact .intro rfl (wordXKK_fields ho)
  case h_6 ho | h_10 ho =>
    split_ifs at h with hn
    cases h
    exact .intro rfl (wordXYN_fields ho hn)
  case h_9 ho => exact encodes_parse8 ho h
  case h_12 ho => cases h; exact .intro (beq_iff_eq.2 (fieldX_eq_addrReg ho)) (wordNNN_fields ho)
  case h_14 ho =>
    split_ifs at h with hn <;> cases h
    · exact .intro rfl (wordXYN_fields ho hn)
    · refine .intro (bne_iff_ne.2 fun e => hn ?_) (wordXYN_fields ho (val_fieldN w).symm)
      rw [← val_fieldN, e]
      rfl
  case h_15 ho => exact encodes_parseE ho h
  case h_16 ho => exact encodes_parseF ho h
  case h_17 => cases h

/-! ### The illegal words (R96) -/

/-- `r` rejects the word `w` where `bad` holds, and is an instruction elsewhere. -/
def RejectsExactly (bad : Prop) (w : Word) (r : Except DecodeError Instr) : Prop :=
  (bad → r = .error (.noRow w)) ∧ (¬ bad → ∃ i, r = .ok i)

theorem RejectsExactly.error {bad : Prop} (w : Word) (h : bad) : RejectsExactly bad w (.error (.noRow w)) :=
  ⟨fun _ => rfl, fun hn => absurd h hn⟩

theorem RejectsExactly.ok {bad : Prop} (w : Word) (i : Instr) (h : ¬ bad) : RejectsExactly bad w (.ok i) :=
  ⟨fun hb => absurd hb h, fun _ => ⟨i, rfl⟩⟩

theorem rejectsExactly_parse8 (w : Word) :
    RejectsExactly (8 ≤ w.toNat % 16 ∧ w.toNat % 16 ≤ 0xD ∨ w.toNat % 16 = 0xF) w (parse8 w) := by
  rw [← low4_eq]
  have : bitField w 0 4 < 16 := by rw [low4_eq]; omega
  unfold parse8
  split
  case h_10 => exact .error w (by simp only [imp_false] at *; omega)
  all_goals exact .ok w _ (by omega)

theorem rejectsExactly_parseE (w : Word) : RejectsExactly (w.toNat % 256 ∉ [0x9E, 0xA1]) w (parseE w) := by
  rw [← low8_eq]
  unfold parseE
  split
  case h_3 => exact .error w (by simp_all)
  all_goals exact .ok w _ (by simp [*])

theorem rejectsExactly_parseF (w : Word) :
    RejectsExactly (w.toNat % 256 ∉ [0x07, 0x0A, 0x15, 0x18, 0x1E, 0x29, 0x30, 0x33, 0x55, 0x65, 0x75, 0x85]) w
      (parseF w) := by
  rw [← low8_eq]
  unfold parseF
  split
  case h_13 => exact .error w (by simp_all)
  all_goals exact .ok w _ (by simp [*])

open Claims in
/-- `parse` rejects the words of the table and no other (R96). -/
theorem rejectsExactly_parse (w : Word) : RejectsExactly (illegalWord w) w (parse w) := by
  unfold illegalWord
  rw [← fieldO_eq]
  have hlt : fieldO w < 16 := by have := w.isLt; rw [fieldO_eq]; omega
  unfold parse
  split
  case h_6 h | h_10 h =>
    rw [h, low4_eq]
    split_ifs with hn
    · exact .ok w _ (by simp [hn])
    · exact .error w (by simp [hn])
  case h_9 h => rw [h]; simpa using rejectsExactly_parse8 w
  case h_14 h =>
    rw [h]
    split_ifs
    all_goals exact .ok w _ (by simp)
  case h_15 h => rw [h]; simpa using rejectsExactly_parseE w
  case h_16 h => rw [h]; simpa using rejectsExactly_parseF w
  case h_17 => simp only [imp_false] at *; omega
  all_goals
    rename_i h
    rw [h]
    exact .ok w _ (by simp)

end Sys2Proof

namespace Sys2Proof.Proofs

/-- Settles O1: the two bytes of the encoding are the encoding again, and `parse_encode` is the round trip of the word. -/
theorem decodeEncodeRoundTrip : Obligations.DecodeEncodeRoundTrip := by
  unfold Obligations.DecodeEncodeRoundTrip
  intro i rest hi
  have hword : parse (wordOfBytes (BitVec.ofNat 8 (bitField (encode i) 8 8)) (BitVec.ofNat 8 (bitField (encode i) 0 8))) =
      .ok i := (congrArg parse (wordOfBytes_bytesOfWord (encode i))).trans (parse_encode i hi)
  simp only [encodeBytes, bytesOfWord, List.cons_append, List.nil_append, decodeBytes, hword]

/-- Settles O2: each row's word is made of the fields `parse` takes from it. -/
theorem encodeParseRoundTrip : Obligations.EncodeParseRoundTrip := fun _ _ => encodes_parse

/-- Settles O3: the rejecting branches of `parse` are the rows of the table. -/
theorem illegalWordsAreExactlyTheTable : Obligations.IllegalWordsAreExactlyTheTable := rejectsExactly_parse

/-- Settles O4: each word is the encoding of its instruction, so it parses to it. -/
theorem sampleWordsDecode : Obligations.SampleWordsDecode :=
  ⟨parse_encode (.call 0x300) rfl, parse_encode (.addReg 1 2) rfl, parse_encode (.ldStore 1) rfl, parse_encode (.ldVxK 3) rfl,
    parse_encode (.drw 0 1 5) rfl, parse_encode (.drw16 0 1) rfl, parse_encode (.scd 7) rfl, parse_encode (.jpV 2 0x244) rfl⟩

end Sys2Proof.Proofs
end

section
/-! What an instruction can do, said once for all of them: it answers a next state, it changes only the pieces it may write,
and it does the same whatever the pieces are that no instruction reads. -/

namespace Sys2Proof.Machine

/-! ### Every instruction answers (60_exceptions.md R245) -/

theorem exec_answers (i : Instr) (s : State) : ∃ t, exec i s = .next t := by
  cases i with
  | call addr =>
    simp only [exec, execCall]
    split_ifs <;> exact ⟨_, rfl⟩
  | ret =>
    simp only [exec, execRet]
    split <;> exact ⟨_, rfl⟩
  | ldVxK x =>
    simp only [exec, execLdVxK]
    split <;> exact ⟨_, rfl⟩
  | _ => exact ⟨_, rfl⟩

/-! ### What an instruction may write -/

/-- `s` with every piece that `i` may write taken from `t`. -/
def State.updatedBy (s : State) (i : Instr) (t : State) : State :=
  match i with
  | .cls | .scd _ | .scr | .scl => { s with vram := t.vram }
  | .lores | .hires => { s with hires := t.hires, vram := t.vram }
  | .ret => { s with pc := t.pc, stack := t.stack }
  | .sys _ => { s with pc := t.pc, fault := t.fault }
  | .jp _ => { s with pc := t.pc, running := t.running }
  | .call _ => { s with pc := t.pc, stack := t.stack, fault := t.fault }
  | .jpV _ _ | .seImm _ _ | .sneImm _ _ | .seReg _ _ | .sneReg _ _ | .skp _ | .sknp _ => { s with pc := t.pc }
  | .ldImm _ _ | .addImm _ _ | .ldReg _ _ | .orReg _ _ | .andReg _ _ | .xorReg _ _ | .addReg _ _ | .sub _ _ | .shr _ _
  | .subn _ _ | .shl _ _ | .ldVxDt _ | .load _ => { s with v := t.v }
  | .ldVxK _ => { s with v := t.v, pc := t.pc }
  | .rnd _ _ => { s with v := t.v, rndCount := t.rndCount }
  | .drw16 _ _ | .drw _ _ _ => { s with v := t.v, vram := t.vram }
  | .ldI _ | .ldF _ | .ldHF _ => { s with i := t.i }
  | .addI _ | .ldLoad _ => { s with v := t.v, i := t.i }
  | .ldStore _ => { s with i := t.i, mem := t.mem }
  | .ldB _ => { s with mem := t.mem }
  | .save _ => { s with flags := t.flags }
  | .ldDtVx _ => { s with dt := t.dt }
  | .ldStVx _ => { s with st := t.st }

/-- An instruction changes nothing but what it may write. -/
theorem exec_frame {i : Instr} {s t : State} (h : exec i s = .next t) : t = s.updatedBy i t := by
  cases i with
  | call _ =>
    simp only [exec, execCall] at h
    split_ifs at h <;> cases h <;> rfl
  | ret =>
    simp only [exec, execRet] at h
    split at h <;> cases h <;> rfl
  | ldVxK _ =>
    simp only [exec, execLdVxK] at h
    split at h <;> cases h <;> rfl
  | seImm _ _ | sneImm _ _ | seReg _ _ | sneReg _ _ | skp _ | sknp _ => cases h; rw [State.skipIf_eq]; rfl
  | orReg _ _ | andReg _ _ | xorReg _ _ => cases h; rw [State.setLogic_eq]; rfl
  | ldStore _ | ldLoad _ => cases h; rw [State.postAdvanceIndex_eq]; rfl
  | _ => cases h; rfl

/-! ### What no instruction reads -/

/-- `s` with other breakpoints, `HALTED`, `ACC`, coming host calls and `hires_draw_flag`. -/
def State.withUnread (s : State) (bs : List Word) (hl : Bool) (a : Option Nat) (cs : List Transaction) (d : Bool) : State :=
  { s with breakpoints := bs, halted := hl, acc := a, hostCalls := cs, quirks := { s.quirks with hiresDrawFlag := d } }

/-- An instruction neither reads nor writes these pieces (10_state.md R37, 60_exceptions.md R264). -/
theorem exec_withUnread {i : Instr} {s t : State} (bs : List Word) (hl : Bool) (a : Option Nat) (cs : List Transaction)
    (d : Bool) (h : exec i s = .next t) : exec i (s.withUnread bs hl a cs d) = .next (t.withUnread bs hl a cs d) := by
  cases i with
  | call _ =>
    have hfull : (s.withUnread bs hl a cs d).stackFull = s.stackFull := rfl
    simp only [exec, execCall, hfull] at h ⊢
    split_ifs at h ⊢ <;> cases h <;> rfl
  | ret =>
    have hstack : (s.withUnread bs hl a cs d).stack = s.stack := rfl
    simp only [exec, execRet, hstack] at h ⊢
    split at h <;> cases h <;> rfl
  | ldVxK _ =>
    have hkey : (s.withUnread bs hl a cs d).leastKey = s.leastKey := rfl
    simp only [exec, execLdVxK, hkey] at h ⊢
    split at h <;> cases h <;> rfl
  | seImm _ _ | sneImm _ _ | seReg _ _ | sneReg _ _ | skp _ | sknp _ =>
    cases h
    simp only [exec, execSeImm, execSneImm, execSeReg, execSneReg, execSkp, execSknp, State.skipIf_eq]
    rfl
  | orReg _ _ | andReg _ _ | xorReg _ _ =>
    cases h
    simp only [exec, execOr, execAnd, execXor, State.setLogic_eq]
    rfl
  | ldStore _ | ldLoad _ =>
    cases h
    simp only [exec, execLdStore, execLdLoad, State.postAdvanceIndex_eq]
    rfl
  | _ => cases h; rfl

end Sys2Proof.Machine
end

section
/-! Control flow (40_control_flow.md section 2, 3): the effect of each jump, call and skip, and the statements about them. -/

namespace Sys2Proof.Machine

variable (s : State) (x y : Reg)

/-! ### Jumps, calls and `SYS` (R117 to R125) -/

theorem exec_sys (addr : Addr) :
    exec (.sys addr) s = .next ((s.setPc (s.pc - 2)).setFault (some (.unmodelledSys (s.pc - 2) addr))) := rfl

theorem exec_jp (addr : Addr) :
    exec (.jp addr) s = .next ((s.setRunning (s.running && addrWord addr != s.pc - 2)).setPc (addrWord addr)) := rfl

theorem exec_jpV (addr : Addr) :
    exec (.jpV x addr) s = .next (s.setPc (BitVec.ofNat 16 (addr.toNat + (s.jumpReg x).toNat))) := rfl

theorem toNat_addrWord (addr : Addr) : (addrWord addr).toNat = addr.toNat := by
  have := addr.isLt
  rw [addrWord, BitVec.toNat_ofNat]
  omega

/-- An address is the word `a` exactly where they are one number. -/
theorem addrWord_eq_iff (addr : Addr) (a : Word) : addrWord addr = a ↔ addr.toNat = a.toNat := by
  rw [← BitVec.toNat_inj, toNat_addrWord]

variable {s}

theorem exec_jp_other {addr : Addr} (h : addr.toNat ≠ (s.pc - 2).toNat) :
    exec (.jp addr) s = .next (s.setPc (addrWord addr)) := by
  have hne : addrWord addr ≠ s.pc - 2 := mt (addrWord_eq_iff addr _).1 h
  rw [exec_jp, bne_iff_ne.2 hne, Bool.and_true]
  rfl

theorem exec_jp_self {addr : Addr} (h : addr.toNat = (s.pc - 2).toNat) :
    exec (.jp addr) s = .next ((s.setRunning false).setPc (addrWord addr)) := by
  rw [exec_jp, (addrWord_eq_iff addr _).2 h, bne_self_eq_false, Bool.and_false]

theorem State.stackFull_eq_true_iff : s.stackFull = true ↔ ∃ d, s.stackDepth = some d ∧ d ≤ s.stack.length := by
  unfold State.stackFull
  split
  case h_1 h => simp [h]
  case h_2 d h => simp [h]

theorem State.stackFull_eq_false_iff :
    s.stackFull = false ↔ s.stackDepth = none ∨ ∃ d, s.stackDepth = some d ∧ s.stack.length < d := by
  unfold State.stackFull
  split
  case h_1 h => simp [h]
  case h_2 d h => simp [h]

theorem exec_call_full (addr : Addr) (h : s.stackFull = true) :
    exec (.call addr) s = .next ((s.setPc (s.pc - 2)).setFault (some (.stackOverflow (s.pc - 2)))) := by
  simp only [exec, execCall, h, if_true]
  rfl

theorem exec_call_push (addr : Addr) (h : s.stackFull = false) :
    exec (.call addr) s = .next ((s.setStack (s.stack ++ [s.pc])).setPc (addrWord addr)) := by
  simp only [exec, execCall, h, if_false, Bool.false_eq_true]
  rfl

/-! ### Skips (R126 to R129) -/

variable (s)

theorem exec_seImm (kk : Byte) : exec (.seImm x kk) s = .next (s.setPc (if s.reg x = kk then s.pc + 2 else s.pc)) := by
  simp only [exec, execSeImm, State.skipIf_eq, beq_iff_eq]

theorem exec_sneImm (kk : Byte) : exec (.sneImm x kk) s = .next (s.setPc (if s.reg x ≠ kk then s.pc + 2 else s.pc)) := by
  simp only [exec, execSneImm, State.skipIf_eq, bne_iff_ne]

theorem exec_seReg : exec (.seReg x y) s = .next (s.setPc (if s.reg x = s.reg y then s.pc + 2 else s.pc)) := by
  simp only [exec, execSeReg, State.skipIf_eq, beq_iff_eq]

theorem exec_sneReg : exec (.sneReg x y) s = .next (s.setPc (if s.reg x ≠ s.reg y then s.pc + 2 else s.pc)) := by
  simp only [exec, execSneReg, State.skipIf_eq, bne_iff_ne]

end Sys2Proof.Machine

namespace Sys2Proof.Proofs

open Sys2Proof.Machine

/-- Settles O33: it is the effect of `SYS`. -/
theorem sysRaisesUnmodelledSys : Obligations.SysRaisesUnmodelledSys := exec_sys

/-- Settles O34: the self-jump test compares 12-bit and 16-bit addresses as numbers. -/
theorem jumpSetsPcAndStopsOnItself : Obligations.JumpSetsPcAndStopsOnItself := fun _ _ => ⟨exec_jp_other, exec_jp_self⟩

/-- Settles O35: the two cases are those of `State.stackFull`. -/
theorem callPushesAndJumps : Obligations.CallPushesAndJumps := by
  unfold Obligations.CallPushesAndJumps
  refine fun s addr => ⟨fun h => ?push, fun d hd hlen => ?full⟩
  case push => exact exec_call_push addr (State.stackFull_eq_false_iff.2 h)
  case full => exact exec_call_full addr (State.stackFull_eq_true_iff.2 ⟨d, hd, hlen⟩)

/-- Settles O37: a 12-bit address plus a byte fits 16 bits. -/
theorem jumpRegisterAddsTheQuirkRegister : Obligations.JumpRegisterAddsTheQuirkRegister := by
  unfold Obligations.JumpRegisterAddsTheQuirkRegister
  refine fun s x addr => ⟨_, exec_jpV s x addr, rfl, ?_⟩
  have haddr := addr.isLt
  have hreg := (s.jumpReg x).isLt
  rw [State.setPc_pc, BitVec.toNat_ofNat, Nat.mod_eq_of_lt (by omega)]
  rfl

/-- Settles O38: they are the effects of the four skips. -/
theorem conditionalSkips : Obligations.ConditionalSkips := fun s x y kk =>
  ⟨exec_seImm s x kk, exec_sneImm s x kk, exec_seReg s x y, exec_sneReg s x y⟩

end Sys2Proof.Proofs
end

section
/-! Registers and the ALU (41_alu.md): the effect of each instruction, the arithmetic of bytes as numbers, and the statements about
them. -/

namespace Sys2Proof.Machine

variable (s : State) (x y : Reg)

/-! ### Effects -/

theorem exec_ldImm (kk : Byte) : exec (.ldImm x kk) s = .next (s.setV x kk) := rfl

theorem exec_addImm (kk : Byte) : exec (.addImm x kk) s = .next (s.setV x (s.reg x + kk)) := rfl

theorem exec_ldReg : exec (.ldReg x y) s = .next (s.setV x (s.reg y)) := rfl

theorem exec_orReg : exec (.orReg x y) s = .next (s.setLogic x (s.reg x ||| s.reg y)) := rfl

theorem exec_andReg : exec (.andReg x y) s = .next (s.setLogic x (s.reg x &&& s.reg y)) := rfl

theorem exec_xorReg : exec (.xorReg x y) s = .next (s.setLogic x (s.reg x ^^^ s.reg y)) := rfl

theorem exec_addReg :
    exec (.addReg x y) s = .next (s.setResultFlag x (s.reg x + s.reg y) (carryFlag (s.reg x) (s.reg y))) := rfl

theorem exec_sub :
    exec (.sub x y) s = .next (s.setResultFlag x (s.reg x - s.reg y) (noBorrowFlag (s.reg x) (s.reg y))) := rfl

theorem exec_subn :
    exec (.subn x y) s = .next (s.setResultFlag x (s.reg y - s.reg x) (noBorrowFlag (s.reg y) (s.reg x))) := rfl

theorem exec_shr : exec (.shr x y) s =
    .next (s.setResultFlag x (s.shiftSource x y >>> 1) (shiftedOutRight (s.shiftSource x y))) := rfl

theorem exec_shl : exec (.shl x y) s =
    .next (s.setResultFlag x (s.shiftSource x y <<< 1) (shiftedOutLeft (s.shiftSource x y))) := rfl

theorem exec_addI : exec (.addI x) s = .next (s.addIndex Config.addiVfClear (s.reg x)) := rfl

theorem exec_ldI (addr : Addr) : exec (.ldI addr) s = .next (s.setI (addrWord addr)) := rfl

/-! ### Results -/

/-- A logic result whose bits are `op` of the operands' bits. -/
theorem State.reg_setLogic_bits (r : Reg) (op : Bool → Bool → Bool) {b : Byte}
    (hb : ∀ k, k < 8 → b.getLsbD k = op ((s.reg x).getLsbD k) ((s.reg y).getLsbD k)) :
    if r = VF ∧ s.quirks.vfReset = true then (s.setLogic x b).reg r = 0
    else if r = x then
      ∀ k, k < 8 → ((s.setLogic x b).reg r).getLsbD k = op ((s.reg x).getLsbD k) ((s.reg y).getLsbD k)
    else (s.setLogic x b).reg r = s.reg r := by
  rw [State.reg_setLogic]
  split_ifs
  · rfl
  · exact hb
  · rfl

theorem State.toNat_maskedIndex (d : Nat) : (s.maskedIndex d).toNat = (s.i.toNat + d) % 4096 := by
  rw [State.maskedIndex, BitVec.toNat_ofNat]
  omega

/-! ### Bytes as numbers (R140) -/

variable (a b : Byte)

theorem byte_add_eq : a + b = BitVec.ofNat 8 ((a.toNat + b.toNat) % 256) := by
  apply BitVec.eq_of_toNat_eq
  simp only [BitVec.toNat_add, BitVec.toNat_ofNat]
  omega

theorem byte_sub_eq : a - b = BitVec.ofNat 8 ((a.toNat + 256 - b.toNat) % 256) := by
  apply BitVec.eq_of_toNat_eq
  have := b.isLt
  simp only [BitVec.toNat_sub, BitVec.toNat_ofNat]
  omega

theorem carryFlag_eq : carryFlag a b = if 255 < a.toNat + b.toNat then 1 else 0 := by
  simp only [carryFlag, flagByte, decide_eq_true_eq, gt_iff_lt]

theorem noBorrowFlag_eq : noBorrowFlag a b = if b.toNat ≤ a.toNat then 1 else 0 := by
  simp only [noBorrowFlag, flagByte, decide_eq_true_eq]

theorem toNat_shiftRight_one : (a >>> 1).toNat = a.toNat / 2 := by
  rw [BitVec.toNat_ushiftRight, Nat.shiftRight_eq_div_pow]

theorem toNat_shiftLeft_one : (a <<< 1).toNat = a.toNat * 2 % 256 := by
  rw [BitVec.toNat_shiftLeft, Nat.shiftLeft_eq]

theorem toNat_shiftedOutRight : (shiftedOutRight a).toNat = a.toNat % 2 := by
  rw [shiftedOutRight, BitVec.toNat_ofNat]
  omega

theorem toNat_shiftedOutLeft : (shiftedOutLeft a).toNat = a.toNat / 128 := by
  have := a.isLt
  rw [shiftedOutLeft, BitVec.toNat_ofNat]
  omega

end Sys2Proof.Machine

namespace Sys2Proof.Proofs

open Sys2Proof.Machine

/-- Settles O39: each is one `State.setV`. -/
theorem plainRegisterWrites : Obligations.PlainRegisterWrites := by
  unfold Obligations.PlainRegisterWrites
  refine fun s x y kk => ⟨⟨_, exec_ldImm s x kk, rfl, fun r => s.reg_setV x r _⟩,
    ⟨_, exec_addImm s x kk, rfl, fun r => ?add⟩, ⟨_, exec_ldReg s x y, rfl, fun r => s.reg_setV x r _⟩⟩
  case add => rw [State.reg_setV, BitVec.ofNat_add, BitVec.ofNat_toNat, BitVec.ofNat_toNat, BitVec.setWidth_eq, BitVec.setWidth_eq]

/-- Settles O40: the sum is written before the carry. -/
theorem addRegisterSetsCarry : Obligations.AddRegisterSetsCarry := by
  unfold Obligations.AddRegisterSetsCarry
  refine fun s x y => ⟨_, exec_addReg s x y, rfl, fun r => ?_⟩
  rw [State.reg_setResultFlag, carryFlag_eq, byte_add_eq]

/-- Settles O41: the difference is written before the no-borrow flag, in both operand orders. -/
theorem subtractionsSetNoBorrow : Obligations.SubtractionsSetNoBorrow := by
  unfold Obligations.SubtractionsSetNoBorrow
  refine fun s x y => ⟨⟨_, exec_sub s x y, rfl, fun r => ?_⟩, ⟨_, exec_subn s x y, rfl, fun r => ?_⟩⟩
  · rw [State.reg_setResultFlag, noBorrowFlag_eq, byte_sub_eq]
  · rw [State.reg_setResultFlag, noBorrowFlag_eq, byte_sub_eq]

/-- Settles O42: the three results work bit by bit, and `State.setLogic` writes each. -/
theorem logicClearsVfUnderTheQuirk : Obligations.LogicClearsVfUnderTheQuirk := by
  unfold Obligations.LogicClearsVfUnderTheQuirk
  rintro s x y i op (⟨rfl, rfl⟩ | ⟨rfl, rfl⟩ | ⟨rfl, rfl⟩)
  · exact ⟨_, exec_orReg s x y, exec_frame (exec_orReg s x y),
      fun r => s.reg_setLogic_bits x y r _ fun k _ => BitVec.getLsbD_or⟩
  · exact ⟨_, exec_andReg s x y, exec_frame (exec_andReg s x y),
      fun r => s.reg_setLogic_bits x y r _ fun k _ => BitVec.getLsbD_and⟩
  · exact ⟨_, exec_xorReg s x y, exec_frame (exec_xorReg s x y),
      fun r => s.reg_setLogic_bits x y r _ fun k _ => BitVec.getLsbD_xor⟩

/-- Settles O43: the shifted source is written before the bit shifted out. -/
theorem shiftsSetTheBitShiftedOut : Obligations.ShiftsSetTheBitShiftedOut := by
  unfold Obligations.ShiftsSetTheBitShiftedOut
  rintro s x y src rfl
  refine ⟨⟨_, exec_shr s x y, rfl, fun r => ?_⟩, ⟨_, exec_shl s x y, rfl, fun r => ?_⟩⟩
  · rw [State.reg_setResultFlag, apply_ite BitVec.toNat, apply_ite BitVec.toNat, toNat_shiftedOutRight, toNat_shiftRight_one]
    rfl
  · rw [State.reg_setResultFlag, apply_ite BitVec.toNat, apply_ite BitVec.toNat, toNat_shiftedOutLeft, toNat_shiftLeft_one]
    rfl

/-- Settles O44: the masked sum is 12 bits, and the overflow flag is that of the exact sum. -/
theorem indexLoadAndAdd : Obligations.IndexLoadAndAdd := by
  unfold Obligations.IndexLoadAndAdd
  refine fun s addr x => ⟨⟨_, exec_ldI s addr, rfl, toNat_addrWord addr⟩, ⟨_, exec_addI s x, rfl, ?index, fun r => ?flag⟩⟩
  case index => exact s.toNat_maskedIndex _
  case flag =>
    rw [State.reg_addIndex]
    rfl

end Sys2Proof.Proofs
end

section
/-! Memory and the index (20_memory.md, 42_memory_index.md section 3): canonical memories, the fetch, the two register transfers,
and the statements about them. -/

namespace Sys2Proof.Machine

/-! ### The canonical form (20_memory.md R60) -/

/-- A canonical memory that reads as unlisted from `lo` on lists nothing. -/
theorem Memory.eq_nil_of_read {m : List Host.Cell} {lo : Nat} (h : Memory.wfFrom lo m = true)
    (hr : ∀ a, lo ≤ a → a < memSize → Memory.read m a = unlistedByte a) : m = [] := by
  cases m with
  | nil => rfl
  | cons e rest =>
    obtain ⟨k, b⟩ := e
    simp only [Memory.wfFrom, Bool.and_eq_true, decide_eq_true_eq, bne_iff_ne] at h
    obtain ⟨⟨⟨hlo, hk⟩, hb⟩, -⟩ := h
    have hread := hr k hlo hk
    rw [Memory.read, if_pos rfl] at hread
    exact absurd hread hb

/-- The first listed address of one memory is no later than that of another that reads alike. -/
theorem Memory.head_le_of_read_eq {k k' lo : Nat} {b b' : Byte} {rest rest' : List Host.Cell}
    (h : Memory.wfFrom lo ((k, b) :: rest) = true) (h' : Memory.wfFrom lo ((k', b') :: rest') = true)
    (hr : ∀ a, lo ≤ a → a < memSize → Memory.read ((k, b) :: rest) a = Memory.read ((k', b') :: rest') a) : k' ≤ k := by
  simp only [Memory.wfFrom, Bool.and_eq_true, decide_eq_true_eq, bne_iff_ne] at h h'
  obtain ⟨⟨⟨hlo, hk⟩, hb⟩, -⟩ := h
  by_contra hlt
  have hread := hr k hlo hk
  rw [Memory.read, if_pos rfl, Memory.read, if_neg (by omega), Memory.read_of_wfFrom_lt h'.2 (by omega)] at hread
  exact hb hread

/-- Canonical memories that read alike are one list. -/
theorem Memory.eq_of_read_eq {m m' : List Host.Cell} {lo : Nat} (h : Memory.wfFrom lo m = true)
    (h' : Memory.wfFrom lo m' = true) (hr : ∀ a, lo ≤ a → a < memSize → Memory.read m a = Memory.read m' a) : m = m' := by
  induction m generalizing m' lo with
  | nil => exact (Memory.eq_nil_of_read h' fun a ha hs => (hr a ha hs).symm).symm
  | cons e rest ih =>
    obtain ⟨k, b⟩ := e
    cases m' with
    | nil => exact Memory.eq_nil_of_read h hr
    | cons e' rest' =>
      obtain ⟨k', b'⟩ := e'
      obtain rfl : k = k' := le_antisymm (Memory.head_le_of_read_eq h' h fun a ha hs => (hr a ha hs).symm)
        (Memory.head_le_of_read_eq h h' hr)
      simp only [Memory.wfFrom, Bool.and_eq_true, decide_eq_true_eq] at h h'
      obtain ⟨⟨⟨hlo, hk⟩, -⟩, hrest⟩ := h
      have hb := hr k hlo hk
      rw [Memory.read, if_pos rfl, Memory.read, if_pos rfl] at hb
      have htail : rest = rest' := ih hrest h'.2 fun a ha hs => by
        have hread := hr a (by omega) hs
        rwa [Memory.read, if_neg (by omega), Memory.read, if_neg (by omega)] at hread
      rw [hb, htail]

/-! ### The fetch (R67, R70) -/

/-- Only an address modulo 4096 counts (R61). -/
theorem State.readByte_congr (s : State) {a c : Nat} (h : a % 4096 = c % 4096) : s.readByte a = s.readByte c := by
  rw [State.readByte, State.readByte, memSize, h]

/-! ### Register transfers (42_memory_index.md R178, R180) -/

variable (s : State) (x : Reg)

theorem exec_ldStore : exec (.ldStore x) s = .next ((s.writeRun s.i.toNat (s.regsUpTo x)).postAdvanceIndex x) := rfl

theorem exec_ldLoad : exec (.ldLoad x) s =
    .next ((s.setRegs (copyRun (fun k => s.readByte (s.i.toNat + k)) (x.val + 1) s.v)).postAdvanceIndex x) := rfl

theorem State.length_regsUpTo : (s.regsUpTo x).length = x.val + 1 := by
  have := x.isLt
  simp only [State.regsUpTo, List.length_take, Vector.length_toList]
  omega

theorem vector_getD_of_lt {α : Type} {m k : Nat} (v : Vector α m) (d : α) (h : k < m) : v.getD k d = v[k] := by
  simp [Vector.getD, h]

theorem State.getD_v (r : Reg) : s.v.getD r.val 0 = s.reg r := vector_getD_of_lt s.v 0 r.isLt

theorem State.getD_regsUpTo {k : Nat} (h : k ≤ x.val) : (s.regsUpTo x).getD k 0 = s.v.getD k 0 := by
  have hk : k < 16 := by omega
  rw [vector_getD_of_lt s.v 0 hk]
  simp [State.regsUpTo, List.getD_eq_getElem?_getD, h]

theorem State.reg_setRegs_copyRun (f : Nat → Byte) (n : Nat) (r : Reg) :
    (s.setRegs (copyRun f n s.v)).reg r = if r.val < n then f r.val else s.reg r :=
  getD_copyRun f n r.val s.v r.isLt

theorem State.toNat_i_postAdvanceIndex :
    (s.postAdvanceIndex x).i.toNat = if s.quirks.memory then (s.i.toNat + x.val + 1) % 4096 else s.i.toNat := by
  rw [State.postAdvanceIndex_eq, State.setI_i, apply_ite BitVec.toNat, State.toNat_maskedIndex, Nat.add_assoc]

@[simp] theorem State.readByte_postAdvanceIndex (a : Nat) : (s.postAdvanceIndex x).readByte a = s.readByte a := by
  rw [State.postAdvanceIndex_eq]
  rfl

@[simp] theorem State.reg_postAdvanceIndex (r : Reg) : (s.postAdvanceIndex x).reg r = s.reg r := by
  rw [State.postAdvanceIndex_eq]
  rfl

@[simp] theorem State.pc_postAdvanceIndex : (s.postAdvanceIndex x).pc = s.pc := by
  rw [State.postAdvanceIndex_eq]
  rfl

variable {s x}

/-- Byte `k` of the stored run (R178). -/
theorem State.readByte_writeRun_regsUpTo (hwf : Memory.wf s.mem = true) (a : Nat) {k : Nat} (hk : k ≤ x.val) :
    (s.writeRun a (s.regsUpTo x)).readByte (a + k) = s.v.getD k 0 := by
  have hlen := s.length_regsUpTo x
  rw [s.readByte_writeRun_inside a _ k hwf (by omega) (by rw [hlen, memSize]; omega), s.getD_regsUpTo x hk]

end Sys2Proof.Machine

namespace Sys2Proof.Proofs

open Sys2Proof.Machine

/-- Settles O30: the two lists have the same first address and byte, and so on. -/
theorem canonicalMemoriesThatReadAlikeAreEqual : Obligations.CanonicalMemoriesThatReadAlikeAreEqual :=
  fun _ _ h h' hr => Memory.eq_of_read_eq h h' fun a _ => hr a

/-- Settles O31: at the end of memory the second byte's address is a multiple of 4096. -/
theorem fetchIsBigEndianModulo4096 : Obligations.FetchIsBigEndianModulo4096 := by
  unfold Obligations.FetchIsBigEndianModulo4096
  refine fun s => ⟨s.toNat_fetch, fun h => ?_⟩
  rw [s.toNat_fetch, s.readByte_congr (c := 0xFFF) (by omega), s.readByte_congr (a := s.pc.toNat + 1) (c := 0x000) (by omega)]

/-- Settles O32: both bytes the fetch reads are in the stored run. -/
theorem fetchSeesTheStoreBeforeIt : Obligations.FetchSeesTheStoreBeforeIt := by
  unfold Obligations.FetchSeesTheStoreBeforeIt
  intro s t x k hs h hk hpc
  cases (exec_ldStore s x).symm.trans h
  have hwf := State.wf_mem_of_sound hs
  have hhi := State.readByte_writeRun_regsUpTo hwf s.i.toNat (show k ≤ x.val by omega)
  have hlo := State.readByte_writeRun_regsUpTo hwf s.i.toNat (show k + 1 ≤ x.val by omega)
  rw [State.toNat_fetch, State.readByte_postAdvanceIndex, State.readByte_postAdvanceIndex, State.pc_postAdvanceIndex]
  rw [State.readByte_congr _ (c := s.i.toNat + k), hhi, State.readByte_congr _ (c := s.i.toNat + (k + 1)), hlo]
  all_goals simp; omega

/-- Settles O47: the run of `V0 .. Vx` reads back, no byte outside it changes, and the quirk's advance of `I` touches no byte. -/
theorem storeRegistersAtIndex : Obligations.StoreRegistersAtIndex := by
  unfold Obligations.StoreRegistersAtIndex
  intro s x hs
  refine ⟨_, exec_ldStore s x, exec_frame (exec_ldStore s x), State.toNat_i_postAdvanceIndex _ x, fun r hr => ?inside,
    fun a ha hout => ?outside⟩
  case inside =>
    rw [State.readByte_postAdvanceIndex, State.readByte_writeRun_regsUpTo (State.wf_mem_of_sound hs) _ hr, s.getD_v]
  case outside =>
    rw [State.readByte_postAdvanceIndex, State.readByte_writeRun_outside]
    intro k hk
    rw [s.length_regsUpTo] at hk
    rw [memSize, Nat.mod_eq_of_lt ha]
    exact hout k (by omega)

/-- Settles O48: the copied run ends at `Vx`. -/
theorem loadRegistersFromIndex : Obligations.LoadRegistersFromIndex := by
  unfold Obligations.LoadRegistersFromIndex
  refine fun s x => ⟨_, exec_ldLoad s x, exec_frame (exec_ldLoad s x), State.toNat_i_postAdvanceIndex _ x, fun r => ?_⟩
  rw [State.reg_postAdvanceIndex, State.reg_setRegs_copyRun, s.readByte_congr (Nat.mod_mod _ 4096)]
  simp only [Nat.lt_succ_iff]

end Sys2Proof.Proofs
end

section
/-! The flag scratch, timers, keys and random numbers (42_memory_index.md section 4, 43_timers_input_random.md): the effect of each
instruction, the least key held, the range of a draw, and the statements about them. -/

namespace Sys2Proof.Machine

variable (s : State) (x : Reg)

/-! ### Effects -/

theorem exec_save : exec (.save x) s = .next (s.setFlags (copyRun (fun k => s.v.getD k 0) (scratchCount x) s.flags)) := rfl

theorem exec_load : exec (.load x) s = .next (s.setRegs (copyRun (fun k => s.flags.getD k 0) (scratchCount x) s.v)) := rfl

theorem exec_ldVxDt : exec (.ldVxDt x) s = .next (s.setV x s.dt) := rfl

theorem exec_ldDtVx : exec (.ldDtVx x) s = .next (s.setDt (s.reg x)) := rfl

theorem exec_ldStVx : exec (.ldStVx x) s = .next (s.setSt (s.reg x)) := rfl

theorem exec_rnd (kk : Byte) :
    exec (.rnd x kk) s = .next ((s.setV x (s.randomDraw kk)).setRndCount (s.rndCount + 1)) := rfl

theorem exec_skp :
    exec (.skp x) s = .next (s.setPc (if s.keyHeld (s.keyOperand x) then s.pc + 2 else s.pc)) := by
  simp only [exec, execSkp, State.skipIf_eq]

theorem exec_sknp :
    exec (.sknp x) s = .next (s.setPc (if s.keyHeld (s.keyOperand x) then s.pc else s.pc + 2)) := by
  simp only [exec, execSknp, State.skipIf_eq]
  cases s.keyHeld (s.keyOperand x) <;> rfl

variable {s}

theorem exec_ldVxK_wait (h : s.leastKey = none) : exec (.ldVxK x) s = .next (s.setPc (s.pc - 2)) := by
  simp only [exec, execLdVxK, h]
  rfl

theorem exec_ldVxK_take {k : Nat} (h : s.leastKey = some k) : exec (.ldVxK x) s = .next (s.setV x (BitVec.ofNat 8 k)) := by
  simp only [exec, execLdVxK, h]

/-! ### The scratch (R184, R186) -/

theorem lt_scratchCount_iff {x : Reg} {k : Nat} : k < scratchCount x ↔ k ≤ min x.val 7 := Nat.lt_succ_iff

/-- A scratch byte after `SAVE` (R184). -/
theorem flags_save (k : Fin 8) :
    (copyRun (fun k => s.v.getD k 0) (scratchCount x) s.flags)[k] = if k.val ≤ x.val then s.v[k.val] else s.flags[k] := by
  have hk := k.isLt
  have hcount : k.val < scratchCount x ↔ k.val ≤ x.val := by rw [lt_scratchCount_iff]; omega
  have hreg : s.v.getD k.val 0 = s.v[k.val] := s.getD_v ⟨k.val, by omega⟩
  rw [Fin.getElem_fin, getD_copyRun, if_congr hcount hreg rfl]
  rfl

/-! ### Keys (R196 to R202) -/

theorem State.keyOperand_eq {k : Key} (h : k.val = (s.reg x &&& 0x0F).toNat) : s.keyOperand x = k := by
  apply Fin.ext
  rw [h, State.keyOperand, Fin.val_ofNat, BitVec.toNat_and]
  exact (Nat.and_two_pow_sub_one_eq_mod _ 4).symm

/-- No key held: there is no least one. -/
theorem leastKeyFrom_eq_none {keys : Vector Bool 16} (h : ∀ k : Key, keys[k] = false) (n k : Nat) (hn : k + n ≤ 16) :
    leastKeyFrom keys n k = none := by
  induction n generalizing k with
  | zero => rfl
  | succ n ih =>
    have hup : keys.getD k false = false := (vector_getD_of_lt keys false (by omega)).trans (h ⟨k, by omega⟩)
    rw [leastKeyFrom, hup, if_neg Bool.false_ne_true, ih (k + 1) (by omega)]

/-- A key with none held below it is the least one. -/
theorem leastKeyFrom_eq_some {keys : Vector Bool 16} {k : Key} (hk : keys[k] = true) (hl : ∀ j : Key, j < k → keys[j] = false)
    (n j : Nat) (hj : j ≤ k.val) (hn : k.val < j + n) : leastKeyFrom keys n j = some k.val := by
  induction n generalizing j with
  | zero => omega
  | succ n ih =>
    have hlt := k.isLt
    rw [leastKeyFrom, vector_getD_of_lt keys false (show j < 16 by omega)]
    rcases Nat.eq_or_lt_of_le hj with rfl | hj
    · exact if_pos hk
    · have hup : keys[j]'(by omega) = false := hl ⟨j, by omega⟩ hj
      rw [hup, if_neg Bool.false_ne_true, ih (j + 1) hj (by omega)]

/-! ### Random draws (R206) -/

/-- The value `RND Vx,kk` makes from a free byte. -/
def drawInRange (kk b : Byte) : Byte := BitVec.ofNat 8 (b.toNat % (kk.toNat + 1))

theorem State.randomDraw_eq (s : State) (kk : Byte) : s.randomDraw kk = drawInRange kk (Config.rndDraw s.rndCount) := rfl

theorem toNat_drawInRange (kk b : Byte) : (drawInRange kk b).toNat = b.toNat % (kk.toNat + 1) := by
  have := Nat.mod_le b.toNat (kk.toNat + 1)
  have := b.isLt
  rw [drawInRange, BitVec.toNat_ofNat, Nat.mod_eq_of_lt (by omega)]

/-- A byte in range is the draw of itself. -/
theorem drawInRange_self {kk r : Byte} (h : r.toNat ≤ kk.toNat) : drawInRange kk r = r := by
  rw [← BitVec.toNat_inj, toNat_drawInRange, Nat.mod_eq_of_lt (by omega)]

end Sys2Proof.Machine

namespace Sys2Proof.Proofs

open Sys2Proof.Machine

/-- Settles O49: each is one `copyRun` of `min(x,7) + 1` bytes. -/
theorem saveAndLoadMoveTheScratch : Obligations.SaveAndLoadMoveTheScratch := by
  unfold Obligations.SaveAndLoadMoveTheScratch
  refine fun s x => ⟨⟨_, exec_save s x, rfl, flags_save x⟩, ⟨_, exec_load s x, rfl, fun r => ?_⟩⟩
  rw [State.reg_setRegs_copyRun]
  exact if_congr lt_scratchCount_iff rfl rfl

/-- Settles O50: `LOAD` reads back from the scratch exactly the run that `SAVE` wrote. -/
theorem saveThenLoadRestores : Obligations.SaveThenLoadRestores := by
  unfold Obligations.SaveThenLoadRestores
  intro s t u x v ht hu r
  cases (exec_save s x).symm.trans ht
  cases (exec_load _ x).symm.trans hu
  rw [State.reg_setRegs_copyRun]
  refine ite_congr (propext lt_scratchCount_iff) (fun hr => ?saved) fun _ => rfl
  case saved =>
    have hr8 : r.val < 8 := by omega
    calc (copyRun (fun k => s.v.getD k 0) (scratchCount x) s.flags).getD r.val 0
      _ = (copyRun (fun k => s.v.getD k 0) (scratchCount x) s.flags)[(⟨r.val, hr8⟩ : Fin 8)] := vector_getD_of_lt _ 0 hr8
      _ = if r.val ≤ x.val then s.v[r.val] else s.flags[r.val] := flags_save x ⟨r.val, hr8⟩
      _ = s.reg r := if_pos (by omega)

/-- Settles O51: each moves one byte. -/
theorem timerAccess : Obligations.TimerAccess := fun s x =>
  ⟨⟨_, exec_ldVxDt s x, rfl, fun r => s.reg_setV x r s.dt⟩, exec_ldDtVx s x, exec_ldStVx s x⟩

/-- Settles O52: the low nibble of `Vx` names the key. -/
theorem keySkipsTestTheLowNibble : Obligations.KeySkipsTestTheLowNibble := by
  unfold Obligations.KeySkipsTestTheLowNibble
  intro s x k hk
  have hkey : s.keyHeld (s.keyOperand x) = s.keys[k] := by rw [State.keyOperand_eq x hk]; rfl
  rw [exec_skp, exec_sknp, hkey]
  exact ⟨rfl, rfl⟩

/-- Settles O53: the search from key 0 up finds the least key held, or none. -/
theorem keyWaitTakesTheLeastKey : Obligations.KeyWaitTakesTheLeastKey := by
  unfold Obligations.KeyWaitTakesTheLeastKey
  refine fun s x => ⟨fun hup => ?wait, fun k hk hl => ⟨_, exec_ldVxK_take x ?least, rfl, fun r => s.reg_setV x r _⟩⟩
  case wait => exact exec_ldVxK_wait x (leastKeyFrom_eq_none hup 16 0 le_rfl)
  case least => exact leastKeyFrom_eq_some hk hl 16 0 (Nat.zero_le _) (by omega)

/-- Settles O54: a draw is its free byte modulo `kk + 1`, so a byte in range is its own draw. -/
theorem randomValueIsAnyInRange : Obligations.RandomValueIsAnyInRange := by
  unfold Obligations.RandomValueIsAnyInRange
  refine fun x kk => ⟨drawInRange kk, fun b => ?range, fun r hr => ⟨r, drawInRange_self hr⟩,
    fun s => ⟨_, exec_rnd s x kk, rfl, fun r => s.reg_setV x r _⟩⟩
  case range =>
    rw [toNat_drawInRange]
    exact Nat.lt_succ_iff.1 (Nat.mod_lt _ (Nat.succ_pos _))

end Sys2Proof.Proofs
end

section
/-! Display (44_display.md): mode switches, the downward scroll and the two draws, and the statements about them. -/

namespace Sys2Proof.Machine

variable (s : State) (x y : Reg)

/-! ### Effects -/

theorem exec_lores : exec .lores s = .next ((s.setHires false).setVram (blankVram 64 32)) := rfl

theorem exec_hires : exec .hires s = .next ((s.setHires true).setVram (blankVram 128 64)) := rfl

theorem exec_scd (n : Count) : exec (.scd n) s = .next (s.setVram (scrollDown s.vram s.width s.height n.val)) := rfl

/-- The canvas after `DRW Vx,Vy,n` (R226). -/
def State.drawn8 (n : Count) : Canvas := s.canvas.drawRows8 s.spriteRow8 (s.originX x) (s.originY y) n.val 0

/-- The canvas after `DRW Vx,Vy,0` (R230). -/
def State.drawn16 : Canvas := s.canvas.drawRows16 s.spriteRow16 (s.originX x) (s.originY y) 16 0

theorem exec_drw (n : Count) : exec (.drw x y n) s = .next (s.withCanvas (s.drawn8 x y n)) := rfl

theorem exec_drw16 : exec (.drw16 x y) s = .next (s.withCanvas (s.drawn16 x y)) := rfl

/-! ### Scrolling down (R220) -/

@[simp] theorem length_scrollDown (old : List Bool) (w h n : Nat) : (scrollDown old w h n).length = w * h :=
  length_buildVram w h _

theorem pixelAt_scrollDown (old : List Bool) (n : Nat) {w h x y : Nat} (hx : x < w) (hy : y < h) :
    pixelAt (scrollDown old w h n) w x y = if n ≤ y then pixelAt old w x (y - n) else false :=
  pixelAt_buildVram _ hx hy

/-! ### Drawing (R225 to R230) -/

variable {s}

theorem State.length_vram_of_sound (h : s.sound = true) : s.vram.length = s.width * s.height := by
  simp only [State.sound, Bool.and_eq_true] at h
  obtain ⟨⟨⟨-, hvram⟩, -⟩, -⟩ := h
  exact of_decide_eq_true hvram

/-- A sound state's canvas can be drawn on. -/
theorem State.fits_canvas (h : s.sound = true) : s.canvas.Fits where
  pixels := State.length_vram_of_sound h
  wide := by simp only [State.canvas, State.width]; split_ifs <;> decide
  high := by simp only [State.canvas, State.height]; split_ifs <;> decide

open Claims in
/-- `DRW Vx,Vy,n` flips the pixels its sprite covers (R226). -/
theorem State.drawn8_covers8 (h : s.sound = true) (n : Count) :
    s.canvas.Drawn (s.drawn8 x y n) (covers8 s x y n.val) 0 := by
  have hdraw := (Canvas.Drawn.nothing s.canvas).rows8 (State.fits_canvas h) s.spriteRow8 (s.originX x) (s.originY y) n.val 0
    (by omega) fun _ _ _ _ _ _ _ => id
  refine hdraw.congr fun px py _ _ => ?_
  simp only [false_or, Nat.zero_le, Nat.zero_add, true_and]
  exact Iff.rfl

open Claims in
/-- `DRW Vx,Vy,0` flips the pixels its sprite covers and counts the rows off the bottom edge (R230). -/
theorem State.drawn16_covers16 (h : s.sound = true) :
    s.canvas.Drawn (s.drawn16 x y) (covers16 s x y) (BitVec.ofNat 8 (rowsOff s y)) := by
  have hfits := State.fits_canvas h
  have horigin : s.originY y < s.height := Nat.mod_lt _ (Nat.lt_of_lt_of_le (by decide) hfits.high)
  have hnone : s.canvas.rowsOff (s.originY y) 0 = 0 := by
    unfold Canvas.rowsOff
    split_ifs
    · rfl
    · exact Nat.sub_eq_zero_of_le horigin.le
  have hdraw := Canvas.Drawn.rows16 hfits s.spriteRow16 (s.originX x) (s.originY y) 16 0
    (by rw [hnone]; exact Canvas.Drawn.nothing s.canvas) le_rfl fun _ _ _ _ _ _ _ => id
  refine hdraw.congr fun px py _ _ => ?_
  simp only [false_or, Nat.zero_le, Nat.zero_add, true_and]
  exact Iff.rfl

theorem State.reg_withCanvas (s : State) (c : Canvas) (r : Reg) :
    (s.withCanvas c).reg r = if r = VF then c.vf else s.reg r := State.reg_setV _ VF r c.vf

theorem State.rowsOff_le (h : s.sound = true) : Claims.rowsOff s y ≤ 15 := by
  have hhigh : 16 ≤ s.height := (State.fits_canvas h).high
  have horigin : (s.reg y).toNat % s.height < s.height := Nat.mod_lt _ (by omega)
  unfold Claims.rowsOff
  split_ifs
  · decide
  · omega

end Sys2Proof.Machine

namespace Sys2Proof.Proofs

open Sys2Proof.Machine

/-- Settles O56: the new buffer is blank. -/
theorem modeSwitchesClearTheBuffer : Obligations.ModeSwitchesClearTheBuffer := fun s =>
  ⟨⟨_, exec_lores s, rfl, length_blankVram 64 32, fun x y _ _ => pixelAt_blankVram 64 32 64 x y⟩,
    ⟨_, exec_hires s, rfl, length_blankVram 128 64, fun x y _ _ => pixelAt_blankVram 128 64 128 x y⟩⟩

/-- Settles O57: each pixel of the new buffer is read `n` rows above in the old one. -/
theorem scrollDownMovesRows : Obligations.ScrollDownMovesRows := fun s n =>
  ⟨_, exec_scd s n, rfl, length_scrollDown _ _ _ _, fun _ _ hx hy => pixelAt_scrollDown s.vram n.val hx hy⟩

/-- Settles O59: `State.drawn8_covers8` says which pixels are flipped and when `VF` is set. -/
theorem drawXorsTheSprite : Obligations.DrawXorsTheSprite := by
  unfold Obligations.DrawXorsTheSprite
  intro s x y n hs
  have hdraw := State.drawn8_covers8 x y hs n
  have hvf := (s.reg_withCanvas (s.drawn8 x y n) VF).trans (if_pos rfl)
  refine ⟨_, exec_drw s x y n, rfl, hdraw.size.2.2.2, fun r hr => ?others, fun px py hx hy => ?pixels, fun hhit => ?hit,
    fun hmiss => ?miss⟩
  case others => rw [State.reg_withCanvas, if_neg hr]
  case pixels => exact ⟨hdraw.flipped px py hx hy, hdraw.kept px py hx hy⟩
  case hit => exact hvf.trans (hdraw.hit hhit)
  case miss => exact hvf.trans (hdraw.miss hmiss)

/-- Settles O60: `State.drawn16_covers16` says which pixels are flipped and what `VF` counts, and at most 15 rows are off the
bottom, so the count does not wrap. -/
theorem draw16XorsAndCountsRows : Obligations.Draw16XorsAndCountsRows := by
  unfold Obligations.Draw16XorsAndCountsRows
  intro s x y hs
  have hdraw := State.drawn16_covers16 x y hs
  have hvf := (s.reg_withCanvas (s.drawn16 x y) VF).trans (if_pos rfl)
  have hrows := State.rowsOff_le y hs
  refine ⟨_, exec_drw16 s x y, rfl, hdraw.size.2.2.2, fun r hr => ?others, fun px py hx hy => ?pixels, fun hhit => ?hit,
    fun hmiss => ?miss⟩
  case others => rw [State.reg_withCanvas, if_neg hr]
  case pixels => exact ⟨hdraw.flipped px py hx hy, hdraw.kept px py hx hy⟩
  case hit =>
    rw [hvf, hdraw.hit hhit, BitVec.toNat_add, BitVec.toNat_ofNat, Nat.mod_eq_of_lt (a := Claims.rowsOff s y) (by omega)]
    show (1 + Claims.rowsOff s y) % 256 = _
    omega
  case miss =>
    have hzero : s.canvas.vf + BitVec.ofNat 8 (Claims.rowsOff s y) = BitVec.ofNat 8 (Claims.rowsOff s y) := BitVec.zero_add _
    rw [hvf, hdraw.miss hmiss, hzero, BitVec.toNat_ofNat, Nat.mod_eq_of_lt (by omega)]

end Sys2Proof.Proofs
end

section
/-! The writers of each piece of state (10_state.md): the registers an instruction may write, `pc`, the index and the rest by
`exec_frame`, and the statements about all instructions. -/

namespace Sys2Proof.Machine

open Claims

variable {i : Instr} {s t : State}

/-- A register that `i` may not write keeps its value. -/
theorem exec_reg_of_not_writesReg {r : Reg} (h : exec i s = .next t) (hr : writesReg i r = false) : t.reg r = s.reg r := by
  cases i with
  | ldImm x _ | addImm x _ | ldReg x _ | rnd x _ | ldVxDt x =>
    cases h
    exact (s.reg_setV x r _).trans (if_neg (beq_eq_false_iff_ne.1 hr))
  | ldVxK x =>
    simp only [exec, execLdVxK] at h
    split at h
    · cases h; rfl
    · cases h; exact (s.reg_setV x r _).trans (if_neg (beq_eq_false_iff_ne.1 hr))
  | orReg x _ | andReg x _ | xorReg x _ =>
    cases h
    obtain ⟨hx, hvf⟩ := Bool.or_eq_false_iff.1 hr
    rw [State.reg_setLogic, if_neg fun hf => beq_eq_false_iff_ne.1 hvf hf.1, if_neg (beq_eq_false_iff_ne.1 hx)]
  | addReg x _ | sub x _ | subn x _ | shr x _ | shl x _ =>
    cases h
    obtain ⟨hx, hvf⟩ := Bool.or_eq_false_iff.1 hr
    rw [State.reg_setResultFlag, if_neg (beq_eq_false_iff_ne.1 hvf), if_neg (beq_eq_false_iff_ne.1 hx)]
  | addI _ => cases h; exact (s.reg_addIndex _ _ r).trans (if_neg (beq_eq_false_iff_ne.1 hr))
  | drw _ _ _ | drw16 _ _ => cases h; exact (s.reg_withCanvas _ r).trans (if_neg (beq_eq_false_iff_ne.1 hr))
  | ldLoad x =>
    cases h
    rw [State.reg_postAdvanceIndex, State.reg_setRegs_copyRun, if_neg fun hlt => of_decide_eq_false hr (Nat.lt_succ_iff.1 hlt)]
  | load x =>
    cases h
    rw [State.reg_setRegs_copyRun, if_neg fun hlt => of_decide_eq_false hr (lt_scratchCount_iff.1 hlt)]
  | _ => rw [exec_frame h]; rfl

theorem exec_v_writers (h : exec i s = .next t) (hne : t.v ≠ s.v) : ∃ r, writesReg i r = true := by
  by_contra hno
  refine hne (Vector.ext fun k hk => ?_)
  exact exec_reg_of_not_writesReg (r := ⟨k, hk⟩) h (Bool.not_eq_true _ ▸ fun hw => hno ⟨_, hw⟩)

theorem exec_pc_writers (h : exec i s = .next t) (hne : t.pc ≠ s.pc) :
    (∃ a, i = .sys a ∨ i = .jp a ∨ i = .call a) ∨ i = .ret ∨ (∃ x a, i = .jpV x a) ∨
      (∃ x kk, i = .seImm x kk ∨ i = .sneImm x kk) ∨ (∃ x y, i = .seReg x y ∨ i = .sneReg x y) ∨
      ∃ x, i = .skp x ∨ i = .sknp x ∨ i = .ldVxK x := by
  cases i with
  | sys _ | jp _ | call _ | ret | jpV _ _ | seImm _ _ | sneImm _ _ | seReg _ _ | sneReg _ _ | skp _ | sknp _ | ldVxK _ => simp
  | _ => exact absurd (congrArg State.pc (exec_frame h)) hne

theorem exec_i_writers (h : exec i s = .next t) (hne : t.i ≠ s.i) :
    (∃ a, i = .ldI a) ∨ (∃ x, i = .addI x ∨ i = .ldF x ∨ i = .ldHF x) ∨
      (s.quirks.memory = true ∧ ∃ x, i = .ldStore x ∨ i = .ldLoad x) := by
  have advance {u : State} {x : Reg} (hne : (u.postAdvanceIndex x).i ≠ s.i) (hu : u.i = s.i) (hq : u.quirks = s.quirks) :
      s.quirks.memory = true := by
    by_contra hm
    rw [State.postAdvanceIndex_eq, hq, if_neg hm] at hne
    exact hne hu
  cases i with
  | ldI _ | addI _ | ldF _ | ldHF _ => simp
  | ldStore x => cases h; exact .inr (.inr ⟨advance hne rfl rfl, x, .inl rfl⟩)
  | ldLoad x => cases h; exact .inr (.inr ⟨advance hne rfl rfl, x, .inr rfl⟩)
  | _ => exact absurd (congrArg State.i (exec_frame h)) hne

theorem exec_stack_writers (h : exec i s = .next t) (hne : t.stack ≠ s.stack) : (∃ a, i = .call a) ∨ i = .ret := by
  cases i with
  | call _ | ret => simp
  | _ => exact absurd (congrArg State.stack (exec_frame h)) hne

theorem exec_dt_writers (h : exec i s = .next t) (hne : t.dt ≠ s.dt) : ∃ x, i = .ldDtVx x := by
  cases i with
  | ldDtVx x => exact ⟨x, rfl⟩
  | _ => exact absurd (congrArg State.dt (exec_frame h)) hne

theorem exec_st_writers (h : exec i s = .next t) (hne : t.st ≠ s.st) : ∃ x, i = .ldStVx x := by
  cases i with
  | ldStVx x => exact ⟨x, rfl⟩
  | _ => exact absurd (congrArg State.st (exec_frame h)) hne

theorem exec_flags_writers (h : exec i s = .next t) (hne : t.flags ≠ s.flags) : ∃ x, i = .save x := by
  cases i with
  | save x => exact ⟨x, rfl⟩
  | _ => exact absurd (congrArg State.flags (exec_frame h)) hne

theorem exec_running_writers (h : exec i s = .next t) (hne : t.running ≠ s.running) : ∃ a, i = .jp a := by
  cases i with
  | jp a => exact ⟨a, rfl⟩
  | _ => exact absurd (congrArg State.running (exec_frame h)) hne

theorem exec_hires_writers (h : exec i s = .next t) (hne : t.hires ≠ s.hires) : i = .lores ∨ i = .hires := by
  cases i with
  | lores | hires => simp
  | _ => exact absurd (congrArg State.hires (exec_frame h)) hne

theorem exec_vram_writers (h : exec i s = .next t) (hne : t.vram ≠ s.vram) :
    i = .cls ∨ i = .lores ∨ i = .hires ∨ i = .scr ∨ i = .scl ∨ (∃ n, i = .scd n) ∨ (∃ x y n, i = .drw x y n) ∨
      ∃ x y, i = .drw16 x y := by
  cases i with
  | cls | lores | hires | scr | scl | scd _ | drw _ _ _ | drw16 _ _ => simp
  | _ => exact absurd (congrArg State.vram (exec_frame h)) hne

theorem exec_mem_writers (h : exec i s = .next t) (hne : t.mem ≠ s.mem) : ∃ x, i = .ldB x ∨ i = .ldStore x := by
  cases i with
  | ldB _ | ldStore _ => simp
  | _ => exact absurd (congrArg State.mem (exec_frame h)) hne

theorem exec_fault_writers (h : exec i s = .next t) (hne : t.fault ≠ s.fault) : (∃ a, i = .sys a) ∨ ∃ a, i = .call a := by
  by_contra! hno
  exact hne (exec_fault h hno.1 hno.2)

theorem exec_rndCount_writers (h : exec i s = .next t) (hne : t.rndCount ≠ s.rndCount) : ∃ x kk, i = .rnd x kk := by
  cases i with
  | rnd x kk => exact ⟨x, kk, rfl⟩
  | _ => exact absurd (congrArg State.rndCount (exec_frame h)) hne

/-- The pieces that belong to the host and the scheduler, which no instruction writes. -/
structure SameHostPieces (s t : State) : Prop where
  keys : t.keys = s.keys
  breakpoints : t.breakpoints = s.breakpoints
  quirks : t.quirks = s.quirks
  clockSpeed : t.clockSpeed = s.clockSpeed
  stackDepth : t.stackDepth = s.stackDepth
  hostCalls : t.hostCalls = s.hostCalls

theorem SameHostPieces.trans {s t u : State} (h : SameHostPieces s t) (h' : SameHostPieces t u) : SameHostPieces s u :=
  ⟨h'.keys.trans h.keys, h'.breakpoints.trans h.breakpoints, h'.quirks.trans h.quirks, h'.clockSpeed.trans h.clockSpeed,
    h'.stackDepth.trans h.stackDepth, h'.hostCalls.trans h.hostCalls⟩

theorem exec_keeps (h : exec i s = .next t) : SameHostPieces s t ∧ t.halted = s.halted ∧ t.acc = s.acc := by
  obtain ⟨_, _, rfl⟩ | ⟨_, _, _, rfl⟩ | hframe := exec_cases h
  · exact ⟨⟨rfl, rfl, rfl, rfl, rfl, rfl⟩, rfl, rfl⟩
  · exact ⟨⟨rfl, rfl, rfl, rfl, rfl, rfl⟩, rfl, rfl⟩
  · rw [hframe]
    exact ⟨⟨rfl, rfl, rfl, rfl, rfl, rfl⟩, rfl, rfl⟩

/-- A self-jump is the only instruction that clears `RUNNING` (40_control_flow.md R119). -/
theorem exec_clears_running (h : exec i s = .next t) (hs : s.running = true) (ht : t.running = false) :
    ∃ addr : Addr, i = .jp addr ∧ addr.toNat = (s.pc - 2).toNat := by
  obtain ⟨addr, rfl⟩ := exec_running_writers h (by simp [hs, ht])
  refine ⟨addr, rfl, ?_⟩
  by_contra hne
  cases (exec_jp_other hne).symm.trans h
  exact absurd (hs.symm.trans ht) (by decide)

end Sys2Proof.Machine

namespace Sys2Proof.Proofs

open Sys2Proof.Machine

/-- Settles O13: only the meanings of `CALL`, `RET` and `LD Vx,K` branch, and each branch answers a next state. -/
theorem everyInstructionAnswersANextState : Obligations.EveryInstructionAnswersANextState := exec_answers

/-- Settles O15: the writers of each piece by `exec_frame`, and the host's pieces by `exec_keeps`. -/
theorem eachPieceOfStateHasItsWriters : Obligations.EachPieceOfStateHasItsWriters := by
  unfold Obligations.EachPieceOfStateHasItsWriters
  intro i s t h
  obtain ⟨hhost, hhalted, hacc⟩ := exec_keeps h
  exact ⟨exec_pc_writers h, exec_v_writers h, exec_i_writers h, exec_stack_writers h, exec_dt_writers h, exec_st_writers h,
    exec_flags_writers h, exec_running_writers h, exec_hires_writers h, exec_vram_writers h, exec_mem_writers h,
    exec_fault_writers h, exec_rndCount_writers h, hhost.keys, hhost.breakpoints, hhalted, hhost.quirks, hhost.clockSpeed,
    hacc, hhost.stackDepth, hhost.hostCalls⟩

/-- Settles O16: each meaning writes its result, its flag or its run of registers and no other. -/
theorem onlyDestinationsAndFlagsAreWritten : Obligations.OnlyDestinationsAndFlagsAreWritten :=
  fun _ _ _ _ => exec_reg_of_not_writesReg

/-- Settles O21: these pieces are among those no instruction reads or writes; `hires_draw_flag` is left as it is. -/
theorem instructionsCannotObserveTheScheduler : Obligations.InstructionsCannotObserveTheScheduler := by
  unfold Obligations.InstructionsCannotObserveTheScheduler
  intro i s t bs hl a cs h
  obtain ⟨hhost, -⟩ := exec_keeps h
  calc exec i { s with breakpoints := bs, halted := hl, acc := a, hostCalls := cs }
    _ = exec i (s.withUnread bs hl a cs s.quirks.hiresDrawFlag) := rfl
    _ = .next (t.withUnread bs hl a cs s.quirks.hiresDrawFlag) := exec_withUnread bs hl a cs _ h
    _ = .next { t with breakpoints := bs, halted := hl, acc := a, hostCalls := cs } := by rw [← hhost.quirks]; rfl

end Sys2Proof.Proofs
end

section
/-! Steps of the machine (60_exceptions.md): the four kinds of step, what a pass and a transaction may write, that steps answer and
read no label, and the statements about every step. -/

namespace Sys2Proof.Machine

variable {s t u : State}

/-! ### What a pass of the tick keeps -/

theorem cpuStep_keeps (h : cpuStep s = .next t) : SameHostPieces s t ∧ t.halted = s.halted ∧ t.acc = s.acc := by
  obtain ⟨_, _, rfl⟩ | ⟨_, _, hexec⟩ := cpuStep_cases h
  · exact ⟨⟨rfl, rfl, rfl, rfl, rfl, rfl⟩, rfl, rfl⟩
  · obtain ⟨hhost, hrest⟩ := exec_keeps hexec
    exact ⟨⟨hhost.keys, hhost.breakpoints, hhost.quirks, hhost.clockSpeed, hhost.stackDepth, hhost.hostCalls⟩, hrest⟩

theorem State.afterStep_sameHostPieces (t : State) (c : Nat) : SameHostPieces t (t.afterStep c) := by
  obtain ⟨_, _, _, _, hframe, -⟩ := t.afterStep_frame c
  rw [hframe]
  exact ⟨rfl, rfl, rfl, rfl, rfl, rfl⟩

theorem pass_sameHostPieces (h : cpuStep s = .next u) (c : Nat) : SameHostPieces s (u.afterStep c) :=
  (cpuStep_keeps h).1.trans (u.afterStep_sameHostPieces c)

/-! ### What a transaction may write (R272 to R277) -/

/-- `s` with the piece that the transaction may write taken from `t`; `tick` may write any. -/
def State.calledBy (s : State) (c : Transaction) (t : State) : State :=
  match c with
  | .tick => t
  | .loadProgram _ => { s with mem := t.mem }
  | .keydown _ | .keyup _ => { s with keys := t.keys }
  | .setBreakpoint _ | .removeBreakpoint _ => { s with breakpoints := t.breakpoints }
  | .resume => { s with halted := t.halted }

theorem hostKey_ok {k : Nat} (hk : k < 16) (held : Bool) (s : State) :
    hostKey k held s = .next (s.setKey ⟨k, hk⟩ held) := dif_pos hk

theorem hostKey_refused {k : Nat} (hk : 16 ≤ k) (held : Bool) (s : State) :
    hostKey k held s = .refused (.keyOutOfRange k) := dif_neg (by omega)

theorem hostLoadProgram_ok {bytes : List Byte} (h : bytes.length ≤ 0xE00) (s : State) :
    hostLoadProgram bytes s = .next (s.writeRun 0x200 bytes) := if_pos h

theorem hostLoadProgram_refused {bytes : List Byte} (h : 0xE00 < bytes.length) (s : State) :
    hostLoadProgram bytes s = .refused (.programTooLong bytes.length) := if_neg (Nat.not_le.2 h)

theorem hostKey_cases {k : Nat} {held : Bool} (h : hostKey k held s = .next t) : ∃ j, t = s.setKey j held := by
  rcases Nat.lt_or_ge k 16 with hk | hk
  · cases (hostKey_ok hk held s).symm.trans h; exact ⟨_, rfl⟩
  · cases (hostKey_refused hk held s).symm.trans h

theorem hostLoadProgram_cases {bytes : List Byte} (h : hostLoadProgram bytes s = .next t) : t = s.writeRun 0x200 bytes := by
  rcases Nat.lt_or_ge 0xE00 bytes.length with hlen | hlen
  · cases (hostLoadProgram_refused hlen s).symm.trans h
  · cases (hostLoadProgram_ok hlen s).symm.trans h; rfl

theorem transact_calledBy {c : Transaction} (h : transact c s = .next t) : t = s.calledBy c t := by
  cases c with
  | tick => rfl
  | loadProgram _ => rw [hostLoadProgram_cases h]; rfl
  | keydown _ => obtain ⟨_, rfl⟩ := hostKey_cases h; rfl
  | keyup _ => obtain ⟨_, rfl⟩ := hostKey_cases h; rfl
  | _ => cases h; rfl

/-! ### The kinds of step -/

theorem State.ready_eq_true_iff : s.ready = true ↔ s.running = true ∧ s.halted = false ∧ s.fault = none := by
  simp only [State.ready, Bool.and_eq_true, Bool.not_eq_true', Option.isNone_iff_eq_none, and_assoc]

/-- The kinds of step from `s` to a next state, with the host's calls left after it. -/
inductive StepKind (s : State) (cs : List Transaction) : State → Prop where
  /-- A tick on a machine that is not ready does nothing, and ends where one is running. -/
  | idle (hr : s.ready = false) : StepKind s cs { s with acc := none, hostCalls := cs }
  /-- A tick with no budget updates the timers. -/
  | timers (hacc : s.acc = none) (hr : s.ready = true) : StepKind s cs (s.setHostCalls cs).tickTimers
  /-- A pass of a tick. -/
  | pass {u : State} {c : Nat} (hr : s.ready = true) (hu : cpuStep (s.setHostCalls cs) = .next u) :
      StepKind s cs (u.afterStep c)
  /-- A transaction that is no `tick`. -/
  | call {t : State} {c : Transaction} (hacc : s.acc = none) (hcalls : s.hostCalls = c :: cs)
      (hc : c ≠ .tick) (ht : transact c (s.setHostCalls cs) = .next t) : StepKind s cs t

/-- The start of a tick is one of the first three kinds. -/
theorem stepKind_of_beginTick {cs : List Transaction} (hacc : s.acc = none) (h : beginTick (s.setHostCalls cs) = .next t) :
    StepKind s cs t := by
  obtain ⟨hr, rfl⟩ | ⟨hr, -, rfl⟩ | ⟨hr, -, u, hu, rfl⟩ := beginTick_cases h
  · have hidle : s.setHostCalls cs = { s with acc := none, hostCalls := cs } := by rw [← hacc]; rfl
    rw [hidle]
    exact .idle hr
  · exact .timers hacc hr
  · exact .pass hr hu

/-- Every step that answers is of one of the four kinds. -/
theorem stepKind_of_step (h : step s = .next t) : ∃ cs, StepKind s cs t := by
  obtain ⟨a, -, hr, rfl⟩ | ⟨a, u, -, hr, hu, rfl⟩ | ⟨hacc, -, hb⟩ | ⟨c, rest, hacc, hcalls, hc⟩ := step_cases h
  · exact ⟨s.hostCalls, .idle hr⟩
  · exact ⟨s.hostCalls, .pass hr hu⟩
  · exact ⟨s.hostCalls, stepKind_of_beginTick hacc hb⟩
  · by_cases htick : c = .tick
    · subst htick
      exact ⟨rest, stepKind_of_beginTick hacc hc⟩
    · exact ⟨rest, .call hacc hcalls htick hc⟩

/-- No step changes the construction parameters (10_state.md R35, R38). -/
theorem step_keeps_configuration (h : step s = .next t) :
    t.quirks = s.quirks ∧ t.clockSpeed = s.clockSpeed ∧ t.stackDepth = s.stackDepth := by
  obtain ⟨cs, hkind⟩ := stepKind_of_step h
  cases hkind with
  | idle | timers => exact ⟨rfl, rfl, rfl⟩
  | @pass u c _ hu =>
    have hhost := pass_sameHostPieces hu c
    exact ⟨hhost.quirks, hhost.clockSpeed, hhost.stackDepth⟩
  | call _ _ hc ht =>
    obtain ⟨_, _, _, _, rfl⟩ := transact_frame ht hc
    exact ⟨rfl, rfl, rfl⟩

/-- On a machine that is not ready a step keeps `RUNNING` and `FAULT`. -/
theorem step_keeps_running_fault (h : step s = .next t) (hr : s.ready = false) : t.running = s.running ∧ t.fault = s.fault := by
  obtain ⟨cs, hkind⟩ := stepKind_of_step h
  cases hkind with
  | idle => exact ⟨rfl, rfl⟩
  | timers _ hr' | pass hr' => cases hr'.symm.trans hr
  | call _ _ hc ht =>
    obtain ⟨_, _, _, _, rfl⟩ := transact_frame ht hc
    exact ⟨rfl, rfl⟩

theorem State.ready_of_not_running (h : s.running = false) : s.ready = false := by simp [State.ready, h]

theorem State.ready_of_halted (h : s.halted = true) : s.ready = false := by simp [State.ready, h]

theorem State.ready_of_fault (h : s.fault ≠ none) : s.ready = false :=
  Bool.eq_false_iff.2 fun hr => h (State.ready_eq_true_iff.1 hr).2.2

/-! ### Who writes the host's pieces (R279) -/

theorem step_keys_writers (h : step s = .next t) (hne : t.keys ≠ s.keys) :
    s.acc = none ∧ ∃ k rest, s.hostCalls = .keydown k :: rest ∨ s.hostCalls = .keyup k :: rest := by
  obtain ⟨cs, hkind⟩ := stepKind_of_step h
  cases hkind with
  | idle | timers => exact absurd rfl hne
  | @pass u c _ hu => exact absurd (pass_sameHostPieces hu c).keys hne
  | @call _ c hacc hcalls hc ht =>
    have hframe := transact_calledBy ht
    cases c with
    | tick => exact absurd rfl hc
    | keydown k => exact ⟨hacc, k, cs, .inl hcalls⟩
    | keyup k => exact ⟨hacc, k, cs, .inr hcalls⟩
    | _ => exact absurd (congrArg State.keys hframe) hne

theorem step_breakpoints_writers (h : step s = .next t) (hne : t.breakpoints ≠ s.breakpoints) :
    s.acc = none ∧ ∃ a rest, s.hostCalls = .setBreakpoint a :: rest ∨ s.hostCalls = .removeBreakpoint a :: rest := by
  obtain ⟨cs, hkind⟩ := stepKind_of_step h
  cases hkind with
  | idle | timers => exact absurd rfl hne
  | @pass u c _ hu => exact absurd (pass_sameHostPieces hu c).breakpoints hne
  | @call _ c hacc hcalls hc ht =>
    have hframe := transact_calledBy ht
    cases c with
    | tick => exact absurd rfl hc
    | setBreakpoint a => exact ⟨hacc, a, cs, .inl hcalls⟩
    | removeBreakpoint a => exact ⟨hacc, a, cs, .inr hcalls⟩
    | _ => exact absurd (congrArg State.breakpoints hframe) hne

theorem step_halted_clearers (h : step s = .next t) (hs : s.halted = true) (ht : t.halted = false) :
    s.acc = none ∧ ∃ rest, s.hostCalls = .resume :: rest := by
  have hne : t.halted ≠ s.halted := by simp [hs, ht]
  have hr := State.ready_of_halted hs
  obtain ⟨cs, hkind⟩ := stepKind_of_step h
  cases hkind with
  | idle => exact absurd rfl hne
  | timers _ hr' | pass hr' => cases hr'.symm.trans hr
  | @call _ c hacc hcalls hc htrans =>
    have hframe := transact_calledBy htrans
    cases c with
    | tick => exact absurd rfl hc
    | resume => exact ⟨hacc, cs, hcalls⟩
    | _ => exact absurd (congrArg State.halted hframe) hne

/-! ### Every step but a bad transaction answers -/

theorem cpuStep_answers (s : State) : ∃ t, cpuStep s = .next t := by
  cases hp : parse s.fetch with
  | error _ => exact ⟨_, cpuStep_of_error hp⟩
  | ok i => rw [cpuStep_of_ok hp]; exact exec_answers i _

theorem runCycle_answers (a : Nat) (s : State) : ∃ t, runCycle a s = .next t := by
  obtain ⟨u, hu⟩ := cpuStep_answers s
  exact ⟨_, runCycle_of_next hu⟩

theorem beginTick_answers (s : State) : ∃ t, beginTick s = .next t := by
  unfold beginTick
  split_ifs
  · exact ⟨_, rfl⟩
  · exact ⟨_, rfl⟩
  · exact runCycle_answers 0 s

theorem continueTick_answers (a : Nat) (s : State) : ∃ t, continueTick a s = .next t := by
  unfold continueTick
  split_ifs
  · exact runCycle_answers a s
  · exact ⟨_, rfl⟩

/-- A transaction is refused for its argument or answers a next state (R272 to R274). -/
theorem transact_answers (c : Transaction) (s : State) : (∃ t, transact c s = .next t) ∨
    (∃ k, (c = .keydown k ∨ c = .keyup k) ∧ 15 < k ∧ transact c s = .refused (.keyOutOfRange k)) ∨
    (∃ bytes, c = .loadProgram bytes ∧ 0xE00 < bytes.length ∧ transact c s = .refused (.programTooLong bytes.length)) := by
  cases c with
  | tick => exact .inl (beginTick_answers s)
  | loadProgram bytes =>
    rcases Nat.lt_or_ge 0xE00 bytes.length with hlen | hlen
    · exact .inr (.inr ⟨bytes, rfl, hlen, hostLoadProgram_refused hlen s⟩)
    · exact .inl ⟨_, hostLoadProgram_ok hlen s⟩
  | keydown k =>
    rcases Nat.lt_or_ge k 16 with hk | hk
    · exact .inl ⟨_, hostKey_ok hk true s⟩
    · exact .inr (.inl ⟨k, .inl rfl, hk, hostKey_refused hk true s⟩)
  | keyup k =>
    rcases Nat.lt_or_ge k 16 with hk | hk
    · exact .inl ⟨_, hostKey_ok hk false s⟩
    · exact .inr (.inl ⟨k, .inr rfl, hk, hostKey_refused hk false s⟩)
  | setBreakpoint _ | removeBreakpoint _ | resume => exact .inl ⟨_, rfl⟩

/-! ### What no step reads: the calls left and `hires_draw_flag` -/

/-- `s` with its coming host calls changed by `f` and `hires_draw_flag` set to `d`. -/
def State.relabel (f : List Transaction → List Transaction) (d : Bool) (s : State) : State :=
  { s with hostCalls := f s.hostCalls, quirks := { s.quirks with hiresDrawFlag := d } }

variable (f : List Transaction → List Transaction) (d : Bool)

theorem State.withUnread_own (h : SameHostPieces s t) (hh : t.halted = s.halted) (ha : t.acc = s.acc) :
    t.withUnread s.breakpoints s.halted s.acc (f s.hostCalls) d = t.relabel f d := by
  rw [← h.breakpoints, ← hh, ← ha, ← h.hostCalls]
  rfl

theorem cpuStep_withUnread (bs : List Word) (hl : Bool) (a : Option Nat) (cs : List Transaction) (h : cpuStep s = .next t) :
    cpuStep (s.withUnread bs hl a cs d) = .next (t.withUnread bs hl a cs d) := by
  have hfetch : (s.withUnread bs hl a cs d).fetch = s.fetch := rfl
  obtain ⟨e, hp, rfl⟩ | ⟨i, hp, hexec⟩ := cpuStep_cases h
  · exact cpuStep_of_error (hfetch ▸ hp)
  · exact (cpuStep_of_ok (hfetch ▸ hp)).trans (exec_withUnread bs hl a cs d hexec)

theorem cpuStep_relabel (h : cpuStep s = .next t) : cpuStep (s.relabel f d) = .next (t.relabel f d) := by
  obtain ⟨hhost, hhalted, hacc⟩ := cpuStep_keeps h
  rw [← State.withUnread_own f d hhost hhalted hacc]
  exact cpuStep_withUnread d _ _ _ _ h

theorem State.afterStep_relabel (t : State) (c : Nat) : (t.relabel f d).afterStep c = (t.afterStep c).relabel f d := by
  unfold State.afterStep
  rw [apply_ite (State.relabel f d), apply_ite (State.relabel f d), apply_ite (State.relabel f d)]
  rfl

theorem runCycle_relabel {a : Nat} (h : runCycle a s = .next t) : runCycle a (s.relabel f d) = .next (t.relabel f d) := by
  obtain ⟨u, hu, rfl⟩ := runCycle_cases h
  rw [runCycle_of_next (cpuStep_relabel f d hu), State.afterStep_relabel]
  rfl

theorem beginTick_relabel (h : beginTick s = .next t) : beginTick (s.relabel f d) = .next (t.relabel f d) := by
  unfold beginTick at h
  have hready : (s.relabel f d).ready = s.ready := rfl
  have hbudget : (s.relabel f d).budget = s.budget := rfl
  rw [beginTick, hready, hbudget]
  split_ifs at h ⊢
  · cases h; rfl
  · cases h; rfl
  · exact runCycle_relabel f d h

theorem continueTick_relabel {a : Nat} (h : continueTick a s = .next t) :
    continueTick a (s.relabel f d) = .next (t.relabel f d) := by
  unfold continueTick at h
  have hready : (s.relabel f d).ready = s.ready := rfl
  rw [continueTick, hready]
  split_ifs at h ⊢
  · exact runCycle_relabel f d h
  · cases h; rfl

theorem transact_relabel {c : Transaction} (h : transact c s = .next t) :
    transact c (s.relabel f d) = .next (t.relabel f d) := by
  cases c with
  | tick => exact beginTick_relabel f d h
  | loadProgram bytes =>
    simp only [transact, hostLoadProgram] at h ⊢
    split_ifs at h ⊢
    cases h; rfl
  | keydown k | keyup k =>
    simp only [transact, hostKey] at h ⊢
    split_ifs at h ⊢
    cases h; rfl
  | setBreakpoint _ | removeBreakpoint _ | resume => cases h; rfl

/-- No step reads `hires_draw_flag` (10_state.md R37). -/
theorem step_relabel_id (h : step s = .next t) : step (s.relabel id d) = .next (t.relabel id d) := by
  cases hacc : s.acc with
  | some a =>
    rw [step_in_tick hacc] at h
    exact (step_in_tick (s := s.relabel id d) hacc).trans (continueTick_relabel id d h)
  | none =>
    cases hcalls : s.hostCalls with
    | nil =>
      rw [step_idle hacc hcalls] at h
      exact (step_idle (s := s.relabel id d) hacc hcalls).trans (beginTick_relabel id d h)
    | cons c rest =>
      rw [step_call hacc hcalls] at h
      exact (step_call (s := s.relabel id d) hacc hcalls).trans (transact_relabel id d h)

/-- Where the quirks are as they were, only the calls left are changed. -/
theorem State.relabel_own_flag (cs : List Transaction) (h : t.quirks = s.quirks) :
    t.relabel (fun _ => cs) s.quirks.hiresDrawFlag = t.setHostCalls cs := by
  rw [← h]
  rfl

/-- A listed `tick` is the implied one (R270, R279). -/
theorem step_listed_tick (cs : List Transaction) (hacc : s.acc = none) (h : step (s.setHostCalls []) = .next t) :
    step (s.setHostCalls (.tick :: cs)) = .next (t.setHostCalls cs) := by
  have hquirks : t.quirks = s.quirks := (step_keeps_configuration h).1
  rw [step_idle (s := s.setHostCalls []) hacc rfl] at h
  rw [step_call (s := s.setHostCalls (.tick :: cs)) hacc rfl, ← State.relabel_own_flag cs hquirks]
  exact beginTick_relabel (s := s.setHostCalls []) (fun _ => cs) s.quirks.hiresDrawFlag h

/-- A pass of the running tick is the same whatever is listed. -/
theorem step_in_tick_setHostCalls (cs : List Transaction) {a : Nat} (hacc : s.acc = some a)
    (h : step (s.setHostCalls []) = .next t) : step (s.setHostCalls cs) = .next (t.setHostCalls cs) := by
  have hquirks : t.quirks = s.quirks := (step_keeps_configuration h).1
  rw [step_in_tick (s := s.setHostCalls []) hacc] at h
  rw [step_in_tick (s := s.setHostCalls cs) hacc, ← State.relabel_own_flag cs hquirks]
  exact continueTick_relabel (s := s.setHostCalls []) (fun _ => cs) s.quirks.hiresDrawFlag h

end Sys2Proof.Machine

namespace Sys2Proof.Proofs

open Sys2Proof.Machine

/-- Settles O14: a pass and the start of a tick always answer, and a transaction is refused only for its argument. -/
theorem stepStopsOnlyOnBadTransactions : Obligations.StepStopsOnlyOnBadTransactions := by
  unfold Obligations.StepStopsOnlyOnBadTransactions
  intro s
  cases hacc : s.acc with
  | some a => rw [step_in_tick hacc]; exact .inl (continueTick_answers a s)
  | none =>
    cases hcalls : s.hostCalls with
    | nil => rw [step_idle hacc hcalls]; exact .inl (beginTick_answers s)
    | cons c rest =>
      rw [step_call hacc hcalls]
      exact (transact_answers c _).imp_right fun hbad => ⟨rfl, c, rest, rfl, hbad⟩

/-- Settles O17: in none of the kinds of step are they written. -/
theorem configurationNeverChanges : Obligations.ConfigurationNeverChanges := fun _ _ => step_keeps_configuration

/-- Settles O18: a machine that is not running is not ready, and only `JP` to its own address clears `RUNNING`. -/
theorem terminationIsASelfJumpAndFinal : Obligations.TerminationIsASelfJumpAndFinal :=
  ⟨fun _ _ hs h => (step_keeps_running_fault h (State.ready_of_not_running hs)).1.trans hs,
    fun _ _ _ => exec_clears_running⟩

/-- Settles O19: a machine with a fault is not ready, so a tick leaves it as it is. -/
theorem faultIsFinal : Obligations.FaultIsFinal := by
  unfold Obligations.FaultIsFinal
  have notReady {s : State} {f : Fault} (hf : s.fault = some f) : s.ready = false := State.ready_of_fault (by simp [hf])
  refine ⟨fun s t f hf h => (step_keeps_running_fault h (notReady hf)).2.trans hf, fun s f hf hacc hcalls n => ?_⟩
  have hstep : step s = .next s := (step_idle hacc hcalls).trans (beginTick_notReady (notReady hf))
  induction n with
  | zero => rfl
  | succ n ih => exact (run_succ_of_next n hstep).trans ih

/-- Settles O20: the writers of each of the host's pieces. -/
theorem hostStateChangesOnlyBetweenTicks : Obligations.HostStateChangesOnlyBetweenTicks := fun _ _ h =>
  ⟨step_keys_writers h, step_breakpoints_writers h, step_halted_clearers h⟩

/-- Settles O22: no step reads the flag. -/
theorem hiresDrawFlagHasNoEffect : Obligations.HiresDrawFlagHasNoEffect := fun _ _ => step_relabel_id

/-- Settles O10: the start of a tick and a pass of it read no listed call. -/
theorem listedTickIsTheImpliedTick : Obligations.ListedTickIsTheImpliedTick := fun _ _ cs h =>
  ⟨fun hacc => step_listed_tick cs hacc h, fun _ hacc => step_in_tick_setHostCalls cs hacc h⟩

end Sys2Proof.Proofs
end

section
/-! Soundness (O11, O12): the part of the invariant that an instruction keeps, the tick's part, and the statements that
construction gives a sound machine and every step keeps it. -/

namespace Sys2Proof.Machine

variable {s t u : State} {i : Instr}

/-- The parts of `State.sound` about the pieces an instruction writes. -/
structure State.BodySound (s : State) : Prop where
  mem : Memory.wf s.mem = true
  index : s.i.toNat ≤ 0x0FFF
  vram : s.vram.length = s.width * s.height
  stack : ∀ d, s.stackDepth = some d → s.stack.length ≤ d

theorem State.stackSound_iff : s.stackSound = true ↔ ∀ d, s.stackDepth = some d → s.stack.length ≤ d := by
  unfold State.stackSound
  split
  case h_1 h => simp [h]
  case h_2 d h => simp [h]

theorem State.sound_iff :
    s.sound = true ↔ s.BodySound ∧ breakpointsWf s.breakpoints = true ∧ s.tickSound = true := by
  simp only [State.sound, Bool.and_eq_true, State.indexSound, State.vramSound, decide_eq_true_eq, State.stackSound_iff]
  constructor
  · rintro ⟨⟨⟨⟨⟨hmem, hbps⟩, hi⟩, hvram⟩, hstack⟩, htick⟩
    exact ⟨⟨hmem, hi, hvram, hstack⟩, hbps, htick⟩
  · rintro ⟨⟨hmem, hi, hvram, hstack⟩, hbps, htick⟩
    exact ⟨⟨⟨⟨⟨hmem, hbps⟩, hi⟩, hvram⟩, hstack⟩, htick⟩

/-! ### Instructions -/

theorem exec_keeps_wf_mem (h : exec i s = .next t) (hs : Memory.wf s.mem = true) : Memory.wf t.mem = true := by
  cases i with
  | ldB x => cases h; exact Memory.writeRun_wf _ _ hs
  | ldStore x => cases h; rw [State.postAdvanceIndex_eq]; exact Memory.writeRun_wf _ _ hs
  | _ => rw [exec_frame h]; exact hs

theorem State.index_le_postAdvanceIndex (x : Reg) (h : s.i.toNat ≤ 0x0FFF) : (s.postAdvanceIndex x).i.toNat ≤ 0x0FFF := by
  rw [State.toNat_i_postAdvanceIndex]
  split_ifs
  · omega
  · exact h

theorem exec_keeps_index (h : exec i s = .next t) (hs : s.i.toNat ≤ 0x0FFF) : t.i.toNat ≤ 0x0FFF := by
  cases i with
  | ldI addr =>
    cases h
    have := addr.isLt
    rw [State.setI_i, toNat_addrWord]
    omega
  | addI x => cases h; exact s.maskedIndex_le _
  | ldF x =>
    cases h
    have := (s.reg x).isLt
    rw [State.setI_i, toNat_smallGlyph]
    omega
  | ldHF x =>
    cases h
    have := (s.reg x).isLt
    rw [State.setI_i, toNat_bigGlyph]
    omega
  | ldStore x => cases h; exact State.index_le_postAdvanceIndex x hs
  | ldLoad x => cases h; exact State.index_le_postAdvanceIndex x hs
  | _ => rw [exec_frame h]; exact hs

theorem exec_keeps_vram_length (h : exec i s = .next t) (hs : s.vram.length = s.width * s.height) :
    t.vram.length = t.width * t.height := by
  cases i with
  | cls => cases h; exact length_blankVram _ _
  | lores => cases h; exact length_blankVram _ _
  | hires => cases h; exact length_blankVram _ _
  | scd n => cases h; exact length_scrollDown _ _ _ _
  | scr => cases h; exact length_scrollRight _ _ _
  | scl => cases h; exact length_scrollLeft _ _ _
  | drw x y n => cases h; exact (s.canvas.drawRows8_sameSize _ _ _ _ _).2.2.2.trans hs
  | drw16 x y => cases h; exact (s.canvas.drawRows16_sameSize _ _ _ _ _).2.2.2.trans hs
  | _ => rw [exec_frame h]; exact hs

theorem exec_keeps_stack (h : exec i s = .next t) (hs : ∀ d, s.stackDepth = some d → s.stack.length ≤ d) :
    ∀ d, t.stackDepth = some d → t.stack.length ≤ d := by
  cases i with
  | call addr =>
    cases hfull : s.stackFull with
    | true => cases (exec_call_full addr hfull).symm.trans h; exact hs
    | false =>
      cases (exec_call_push addr hfull).symm.trans h
      intro d hd
      obtain hnone | ⟨d', hd', hlt⟩ := State.stackFull_eq_false_iff.1 hfull
      · cases hnone.symm.trans hd
      · cases hd'.symm.trans hd
        simpa using hlt
  | ret =>
    intro d hd
    have hpop : t.stack.length ≤ s.stack.length := by
      rcases List.eq_nil_or_concat s.stack with hnil | ⟨l, a, hl⟩
      · cases (exec_ret_of_stack_nil hnil).symm.trans h; exact le_rfl
      · rw [List.concat_eq_append] at hl
        cases (exec_ret_of_stack_append hl).symm.trans h; simp [hl]
    exact hpop.trans (hs d ((exec_keeps h).1.stackDepth.symm.trans hd))
  | _ => rw [exec_frame h]; exact hs

theorem exec_keeps_bodySound (h : exec i s = .next t) (hs : s.BodySound) : t.BodySound :=
  ⟨exec_keeps_wf_mem h hs.mem, exec_keeps_index h hs.index, exec_keeps_vram_length h hs.vram, exec_keeps_stack h hs.stack⟩

/-! ### Passes and transactions -/

theorem cpuStep_keeps_bodySound (h : cpuStep s = .next t) (hs : s.BodySound) : t.BodySound := by
  obtain ⟨_, _, rfl⟩ | ⟨_, _, hexec⟩ := cpuStep_cases h
  · exact ⟨hs.mem, hs.index, hs.vram, hs.stack⟩
  · exact exec_keeps_bodySound hexec ⟨hs.mem, hs.index, hs.vram, hs.stack⟩

theorem State.bodySound_afterStep (ht : t.BodySound) (c : Nat) : (t.afterStep c).BodySound := by
  obtain ⟨_, _, _, _, hframe, -⟩ := t.afterStep_frame c
  rw [hframe]
  exact ⟨ht.mem, ht.index, ht.vram, ht.stack⟩

theorem State.tickSound_of_acc (h : s.acc = none) : s.tickSound = true := by rw [State.tickSound, h]

/-- A tick goes on only on a ready machine under budget (60_exceptions.md R258). -/
theorem State.tickSound_afterStep (ht : t.halted = false) (c : Nat) : (t.afterStep c).tickSound = true := by
  obtain ⟨-, e⟩ | ⟨-, -, e⟩ | ⟨-, -, -, e⟩ | ⟨hfault, -, hrunning, hbudget, e⟩ := t.afterStep_cases c
  · rw [e]; exact State.tickSound_of_acc rfl
  · rw [e]; exact State.tickSound_of_acc rfl
  · rw [e]; exact State.tickSound_of_acc rfl
  · rw [e]
    have hready : (t.setAcc (some c)).ready = true := State.ready_eq_true_iff.2 ⟨hrunning, ht, hfault⟩
    exact Bool.and_eq_true_iff.2 ⟨hready, decide_eq_true hbudget⟩

theorem transact_keeps_bodySound {c : Transaction} (h : transact c s = .next t) (hc : c ≠ .tick) (hs : s.BodySound) :
    t.BodySound := by
  cases c with
  | tick => exact absurd rfl hc
  | loadProgram bytes =>
    rw [hostLoadProgram_cases h]
    exact ⟨Memory.writeRun_wf _ _ hs.mem, hs.index, hs.vram, hs.stack⟩
  | _ => rw [transact_calledBy h]; exact ⟨hs.mem, hs.index, hs.vram, hs.stack⟩

theorem transact_keeps_breakpointsWf {c : Transaction} (h : transact c s = .next t) (hc : c ≠ .tick)
    (hs : breakpointsWf s.breakpoints = true) : breakpointsWf t.breakpoints = true := by
  cases c with
  | tick => exact absurd rfl hc
  | setBreakpoint a => cases h; exact breakpointsInsert_wf a hs
  | removeBreakpoint a => cases h; exact breakpointsErase_wf a hs
  | _ => rw [transact_calledBy h]; exact hs

/-- Every step keeps the machine sound. -/
theorem step_keeps_sound (hs : s.sound = true) (h : step s = .next t) : t.sound = true := by
  obtain ⟨hbody, hbps, -⟩ := State.sound_iff.1 hs
  obtain ⟨hmem, hindex, hvram, hstack⟩ := hbody
  refine State.sound_iff.2 ?_
  obtain ⟨cs, hkind⟩ := stepKind_of_step h
  cases hkind with
  | idle => exact ⟨⟨hmem, hindex, hvram, hstack⟩, hbps, State.tickSound_of_acc rfl⟩
  | timers hacc => exact ⟨⟨hmem, hindex, hvram, hstack⟩, hbps, State.tickSound_of_acc hacc⟩
  | @pass u c hready hu =>
    have hu_body : u.BodySound := cpuStep_keeps_bodySound hu ⟨hmem, hindex, hvram, hstack⟩
    have hu_halted : u.halted = false := (cpuStep_keeps hu).2.1.trans (State.ready_eq_true_iff.1 hready).2.1
    refine ⟨State.bodySound_afterStep hu_body c, ?_, State.tickSound_afterStep hu_halted c⟩
    rw [(pass_sameHostPieces hu c).breakpoints]
    exact hbps
  | call hacc _ hc ht =>
    refine ⟨transact_keeps_bodySound ht hc ⟨hmem, hindex, hvram, hstack⟩, transact_keeps_breakpointsWf ht hc hbps,
      State.tickSound_of_acc ?_⟩
    obtain ⟨_, _, _, _, rfl⟩ := transact_frame ht hc
    exact hacc

theorem State.sound_construct (q : Quirks) (c : Nat) : (State.construct q c).sound = true := by
  refine State.sound_iff.2 ⟨⟨rfl, Nat.zero_le _, List.length_replicate, fun d hd => ?_⟩, rfl, rfl⟩
  cases hd

end Sys2Proof.Machine

namespace Sys2Proof.Proofs

open Sys2Proof.Machine

/-- Settles O11: instructions keep the body of the invariant, transactions the breakpoints, and the tick goes on only where it
may. -/
theorem everyStepKeepsTheMachineSound : Obligations.EveryStepKeepsTheMachineSound := fun _ _ => step_keeps_sound

/-- Settles O12: the reset state is a constructed one. -/
theorem constructionIsSound : Obligations.ConstructionIsSound :=
  ⟨State.sound_construct resetQuirks resetClockSpeed, State.sound_construct⟩

end Sys2Proof.Proofs
end

section
/-! Construction and the host's transactions (70_reset_and_hazards.md, 60_exceptions.md R272 to R277): the bytes of memory at
reset, the effect of each listed call, and the statements about them. -/

namespace Sys2Proof.Machine

variable {s : State}

/-! ### Reset memory (20_memory.md R66) -/

theorem unlistedByte_bigFont {a : Nat} (h : 0x050 ≤ a) (h' : a < 0x0F0) : unlistedByte a = Config.bigFont (a - 0x050) :=
  (if_neg (Nat.not_lt.2 h)).trans (if_pos h')

theorem unlistedByte_zero {a : Nat} (h : 0x0F0 ≤ a) : unlistedByte a = 0 := by
  have hbase : ¬ a < bigFontBase := by rw [bigFontBase]; omega
  exact (if_neg hbase).trans (if_neg (Nat.not_lt.2 h))

theorem State.readByte_construct_of_lt (q : Quirks) (c : Nat) {a : Nat} (h : a < 4096) :
    (State.construct q c).readByte a = unlistedByte a := by
  rw [State.readByte_construct, memSize, Nat.mod_eq_of_lt h]

/-! ### Listed calls -/

variable {rest : List Transaction} (hacc : s.acc = none)
include hacc

theorem step_loadProgram {bytes : List Byte} (h : s.hostCalls = .loadProgram bytes :: rest) :
    step s = hostLoadProgram bytes (s.setHostCalls rest) := step_call hacc h

theorem step_key {k : Nat} {held : Bool} (h : s.hostCalls = (if held then .keydown k else .keyup k) :: rest) :
    step s = hostKey k held (s.setHostCalls rest) := by
  cases held with
  | true => exact step_call hacc h
  | false => exact step_call hacc h

theorem step_setBreakpoint {a : Word} (h : s.hostCalls = .setBreakpoint a :: rest) :
    step s = .next ((s.setHostCalls rest).setBreakpoints (breakpointsInsert s.breakpoints a)) := step_call hacc h

theorem step_removeBreakpoint {a : Word} (h : s.hostCalls = .removeBreakpoint a :: rest) :
    step s = .next ((s.setHostCalls rest).setBreakpoints (breakpointsErase s.breakpoints a)) := step_call hacc h

theorem step_resume (h : s.hostCalls = .resume :: rest) : step s = .next ((s.setHostCalls rest).setHalted false) :=
  step_call hacc h

end Sys2Proof.Machine

namespace Sys2Proof.Proofs

open Sys2Proof.Machine

/-- Settles O23: the fields of `State.construct`; memory lists nothing, so every byte is the reset contents. -/
theorem constructionGivesTheResetValues : Obligations.ConstructionGivesTheResetValues := by
  unfold Obligations.ConstructionGivesTheResetValues
  intro q c
  have hregs (r : Reg) : (State.construct q c).reg r = 0 := Vector.getElem_replicate r.isLt
  have hflags (k : Fin 8) : (State.construct q c).flags[k] = 0 := Vector.getElem_replicate k.isLt
  have hkeys (k : Key) : (State.construct q c).keys[k] = false := Vector.getElem_replicate k.isLt
  have hpixels (x y : Nat) : pixelAt (State.construct q c).vram 64 x y = false := pixelAt_blankVram 64 32 64 x y
  exact ⟨rfl, hregs, rfl, rfl, rfl, rfl, hflags, rfl, rfl, List.length_replicate, fun x y _ _ => hpixels x y, hkeys, rfl, rfl,
    rfl, rfl, rfl, rfl, rfl, rfl, rfl, rfl, State.readByte_construct q c⟩

/-- Settles O24: the three ranges of the reset contents. -/
theorem constructionMemoryHoldsTheFonts : Obligations.ConstructionMemoryHoldsTheFonts := by
  unfold Obligations.ConstructionMemoryHoldsTheFonts
  intro q c a ha
  rw [State.readByte_construct_of_lt q c ha]
  exact ⟨unlistedByte_of_lt, unlistedByte_bigFont, unlistedByte_zero⟩

/-- Settles O26: the program is one run from 0x200 on, which fits memory and so neither wraps nor covers itself. -/
theorem loadProgramWritesItsBytesOnly : Obligations.LoadProgramWritesItsBytesOnly := by
  unfold Obligations.LoadProgramWritesItsBytesOnly
  intro s bytes rest hs hacc hcalls
  have hstep := step_loadProgram hacc hcalls
  refine ⟨fun hlen => ⟨_, hstep.trans (hostLoadProgram_ok hlen _), rfl, fun k hk => ?inside, fun a ha hout => ?outside⟩,
    fun hlen => hstep.trans (hostLoadProgram_refused hlen _)⟩
  case inside =>
    exact State.readByte_writeRun_inside _ 0x200 bytes k (State.wf_mem_of_sound hs) hk (by rw [memSize]; omega)
  case outside =>
    refine State.readByte_writeRun_outside _ 0x200 bytes a fun k hk => ?_
    rw [memSize]
    omega

/-- Settles O27: one entry of `KEYS` is set. -/
theorem keyTransactionsSetOneKey : Obligations.KeyTransactionsSetOneKey := by
  unfold Obligations.KeyTransactionsSetOneKey
  intro s k held rest hacc hcalls
  have hstep := step_key hacc hcalls
  refine ⟨fun hk => ⟨_, hstep.trans (hostKey_ok hk held _), rfl, fun j => ?_⟩,
    fun hk => hstep.trans (hostKey_refused hk held _)⟩
  simp only [State.setKey, Fin.getElem_fin, Vector.getElem_set, eq_comm]
  rfl

/-- Settles O28: the set afterwards is that of `breakpointsInsert` and `breakpointsErase`. -/
theorem breakpointTransactionsEditTheSet : Obligations.BreakpointTransactionsEditTheSet := by
  unfold Obligations.BreakpointTransactionsEditTheSet
  refine fun s a rest hacc => ⟨fun h => ⟨_, step_setBreakpoint hacc h, rfl, ?insert⟩,
    fun h => ⟨_, step_removeBreakpoint hacc h, rfl, ?erase⟩, step_resume hacc⟩
  case insert => exact mem_breakpointsInsert s.breakpoints a
  case erase => exact mem_breakpointsErase s.breakpoints a

end Sys2Proof.Proofs
end

section
/-! Passes of a tick (60_exceptions.md R257 to R262, 40_control_flow.md R110 to R115): what is fetched, the four ends of a pass as
equations, the faulting passes, and the statements about single steps. -/

namespace Sys2Proof

theorem decodeBytes_of_parse_ok {hi lo : Byte} {i : Instr} (h : parse (wordOfBytes hi lo) = .ok i) :
    decodeBytes [hi, lo] = .ok (i, []) := by
  rw [decodeBytes, h]

theorem decodeBytes_of_parse_error {hi lo : Byte} {e : DecodeError} (h : parse (wordOfBytes hi lo) = .error e) :
    decodeBytes [hi, lo] = .error e := by
  rw [decodeBytes, h]

end Sys2Proof

namespace Sys2Proof.Machine

open Claims

variable {s t u : State} {i : Instr} {a c : Nat}

/-! ### What is fetched -/

theorem fetches_iff : fetches s i ↔ parse s.fetch = .ok i := by
  constructor
  · intro h
    cases hp : parse s.fetch with
    | error _ => cases (decodeBytes_of_parse_error hp).symm.trans h
    | ok _ => cases (decodeBytes_of_parse_ok hp).symm.trans h; rfl
  · exact decodeBytes_of_parse_ok

theorem parse_error_of_fetchesNothing (h : fetchesNothing s) : ∃ e, parse s.fetch = .error e := by
  obtain ⟨e, he⟩ := h
  cases hp : parse s.fetch with
  | error e' => exact ⟨e', rfl⟩
  | ok _ => cases (decodeBytes_of_parse_ok hp).symm.trans he

theorem cpuStep_of_fetches (h : fetches s i) : cpuStep s = exec i (s.setPc (s.pc + 2)) := cpuStep_of_ok (fetches_iff.1 h)

theorem stepCost_of_fetches (h : fetches s i) :
    stepCost s = if isDraw i = true ∧ s.quirks.displayWait = true then s.clockSpeed / 6000 else 8 := by
  rw [stepCost_of_ok (fetches_iff.1 h), State.cost]
  simp only [Bool.and_eq_true]
  rfl

/-! ### A pass and its ends (R258 to R262) -/

/-- The step of a machine at a pass of its tick is that pass. -/
theorem step_atPass (h : atPass s a) : step s = runCycle a s := by
  obtain ⟨hr, hacc | ⟨hacc, hcalls, rfl, hb⟩⟩ := h
  · rw [step_in_tick hacc, continueTick_ready a hr]
  · rw [step_idle hacc hcalls, beginTick_budget hr (Nat.pos_iff_ne_zero.1 hb)]

theorem State.tickTimers_eq_sub (t : State) :
    t.tickTimers = { t with dt := BitVec.ofNat 8 (t.dt.toNat - 1), st := BitVec.ofNat 8 (t.st.toNat - 1) } := by
  rw [← timerDown_eq, ← timerDown_eq]
  rfl

theorem State.afterStep_fault (h : t.fault ≠ none) : t.afterStep c = t.setAcc none :=
  if_pos (Option.isSome_iff_ne_none.2 h)

section NoFault
variable (hf : t.fault = none)
include hf

theorem State.afterStep_breakpoint (hb : t.pc ∈ t.breakpoints) : t.afterStep c = (t.setHalted true).setAcc none := by
  rw [State.afterStep, if_neg (by simp [hf]), if_pos (by simpa using hb)]

variable (hb : t.pc ∉ t.breakpoints)
include hb

theorem State.afterStep_last (he : t.running = false ∨ t.budget ≤ c) : t.afterStep c = t.tickTimers.setAcc none := by
  rw [State.afterStep, if_neg (by simp [hf]), if_neg (by simpa using hb), if_pos (by simpa using he)]

theorem State.afterStep_goesOn (hr : t.running = true) (hc : c < t.budget) : t.afterStep c = t.setAcc (some c) := by
  rw [State.afterStep, if_neg (by simp [hf]), if_neg (by simpa using hb), if_neg (by simp [hr, hc])]
end NoFault

/-- A pass that runs the fetched instruction. -/
theorem step_of_fetches (hp : atPass s a) (hi : fetches s i) (hexec : exec i { s with pc := s.pc + 2 } = .next t) :
    step s = .next (t.afterStep (a + stepCost s)) := by
  rw [step_atPass hp, runCycle_of_next ((cpuStep_of_fetches hi).trans hexec)]

/-- A faulting pass ends the tick with no timer update (R241). -/
theorem step_of_faulting (hp : atPass s a) (hstep : cpuStep s = .next t) (hf : t.fault ≠ none) :
    step s = .next (t.setAcc none) := by
  rw [step_atPass hp, runCycle_of_next hstep, State.afterStep_fault hf]

theorem step_fetchesNothing (hp : atPass s a) (h : fetchesNothing s) :
    step s = .next ((s.setFault (some (.decodeFault s.pc s.fetch))).setAcc none) := by
  obtain ⟨e, he⟩ := parse_error_of_fetchesNothing h
  exact step_of_faulting hp (cpuStep_of_error he) (Option.some_ne_none _)

/-- An instruction that raises leaves `pc` at itself. -/
theorem step_raising {f : Word → Fault} (hp : atPass s a) (hi : fetches s i)
    (hexec : ∀ v : State, v.stackDepth = s.stackDepth → v.stack = s.stack →
      exec i v = .next ((v.setPc (v.pc - 2)).setFault (some (f (v.pc - 2))))) :
    step s = .next ((s.setFault (some (f s.pc))).setAcc none) := by
  have hraise := hexec (s.setPc (s.pc + 2)) rfl rfl
  rw [← cpuStep_of_fetches hi, State.setPc_pc, BitVec.add_sub_cancel] at hraise
  exact step_of_faulting hp hraise (Option.some_ne_none _)

theorem step_sys {addr : Addr} (hp : atPass s a) (hi : fetches s (.sys addr)) :
    step s = .next ((s.setFault (some (.unmodelledSys s.pc addr))).setAcc none) :=
  step_raising (f := fun pc0 => .unmodelledSys pc0 addr) hp hi fun v _ _ => exec_sys v addr

theorem step_call_full {addr : Addr} {d : Nat} (hp : atPass s a) (hi : fetches s (.call addr)) (hd : s.stackDepth = some d)
    (hlen : d ≤ s.stack.length) : step s = .next ((s.setFault (some (.stackOverflow s.pc))).setAcc none) :=
  step_raising (f := .stackOverflow) hp hi fun _ hdepth hstack =>
    exec_call_full addr (State.stackFull_eq_true_iff.2 ⟨d, hdepth.trans hd, hstack ▸ hlen⟩)

/-! ### Construction (70_reset_and_hazards.md R293) -/

theorem atPass_construct (q : Quirks) {c : Nat} (h : 6000 ≤ c) : atPass (State.construct q c) 0 := by
  refine ⟨rfl, .inr ⟨rfl, rfl, rfl, ?_⟩⟩
  show 0 < c / 6000
  omega

theorem fetches_construct (q : Quirks) (c : Nat) : fetches (State.construct q c) (.sys 0x000) := by
  have hzero {k : Nat} (hk : 0x0F0 ≤ k) (hk' : k < 4096) : (State.construct q c).readByte k = 0 := by
    rw [State.readByte_construct_of_lt q c hk', unlistedByte_zero hk]
  have hhi : (State.construct q c).readByte (State.construct q c).pc.toNat = 0 := hzero (k := 0x200) (by decide) (by decide)
  have hlo : (State.construct q c).readByte ((State.construct q c).pc.toNat + 1) = 0 :=
    hzero (k := 0x201) (by decide) (by decide)
  rw [fetches, hhi, hlo]
  decide

end Sys2Proof.Machine

namespace Sys2Proof.Proofs

open Sys2Proof.Machine

/-- Settles O5: the step is the pass, and its four ends are those of `State.afterStep`. -/
theorem stepRunsDecodedInstruction : Obligations.StepRunsDecodedInstruction := by
  unfold Obligations.StepRunsDecodedInstruction
  intro s t a c i hp hi hexec hc
  have hstep := step_of_fetches hp hi hexec
  rw [stepCost_of_fetches hi, ← hc] at hstep
  refine ⟨fun hf => ?fault, fun hf hb => ?breakpoint, fun hf hb he => ?last, fun hf hb hr hlt => ?goesOn⟩
  case fault => rw [hstep, State.afterStep_fault hf]; rfl
  case breakpoint => rw [hstep, State.afterStep_breakpoint hf hb]; rfl
  case last => rw [hstep, State.afterStep_last hf hb he, State.tickTimers_eq_sub]; rfl
  case goesOn => rw [hstep, State.afterStep_goesOn hf hb hr hlt]; rfl

/-- Settles O6: the three faulting passes. -/
theorem faultingStepsWriteOnlyFault : Obligations.FaultingStepsWriteOnlyFault := fun _ _ _ hp =>
  ⟨step_fetchesNothing hp, step_sys hp, fun _ => step_call_full hp⟩

/-- Settles O7: the two ways in which the start of a tick runs no step. -/
theorem ticksThatRunNoStep : Obligations.TicksThatRunNoStep := by
  unfold Obligations.TicksThatRunNoStep
  intro s rest hacc
  refine ⟨fun hstopped => ?stopped, fun hr hcalls hclock => ?noBudget⟩
  case stopped =>
    have hr : s.ready = false := by
      obtain h | h | h := hstopped
      · exact State.ready_of_not_running h
      · exact State.ready_of_halted h
      · exact State.ready_of_fault h
    exact ⟨fun hcalls => (step_idle hacc hcalls).trans (beginTick_notReady hr),
      fun hcalls => (step_call hacc hcalls).trans (beginTick_notReady (s := s.setHostCalls rest) hr)⟩
  case noBudget =>
    rw [step_idle hacc hcalls, beginTick_noBudget hr (Nat.div_eq_of_lt hclock), State.tickTimers_eq_sub]

/-- Settles O25: the two bytes at 0x200 are 0, which is `SYS 0x000`. -/
theorem tickBeforeLoadingFaultsOnSys : Obligations.TickBeforeLoadingFaultsOnSys := fun q c h =>
  step_sys (atPass_construct q h) (fetches_construct q c)

end Sys2Proof.Proofs
end

section
/-! Whole ticks: an ordinary tick runs `ceil(B/8)` steps (70_reset_and_hazards.md R297), and the steps of a tick are the `tick()` of
60_exceptions.md R258. -/

namespace Sys2Proof.Machine

open Claims

variable {s t u v : State} {i : Instr} {a c k n : Nat}

/-! ### Counting steps -/

theorem reaches_unique (h : reaches k s u) (h' : reaches k s v) : u = v := by
  cases h.symm.trans h'
  rfl

theorem reaches_succ (h : reaches k s u) (hstep : step u = .next v) : reaches (k + 1) s v :=
  run_snoc Sys2Proof.core k h hstep

/-- After a first step that answers, `n + 1` steps are `n` steps from there. -/
theorem reaches_succ_iff (hstep : step s = .next v) : reaches (n + 1) s t ↔ reaches n v t := by
  rw [reaches, run_succ_of_next n hstep, reaches]

theorem cpuStep_budget (h : cpuStep s = .next t) : t.budget = s.budget := by
  rw [State.budget, (cpuStep_keeps h).1.clockSpeed, State.budget]

/-! ### Ordinary ticks (R297) -/

/-- The next pass runs an instruction that is no draw under `display_wait`, does not fault, does not terminate and reaches no
breakpoint. -/
def OrdinaryPass (s : State) : Prop :=
  ∃ i t, fetches s i ∧ ¬ (isDraw i = true ∧ s.quirks.displayWait = true) ∧ exec i { s with pc := s.pc + 2 } = .next t ∧
    t.fault = none ∧ t.running = true ∧ t.pc ∉ t.breakpoints

/-- Under budget an ordinary pass costs 8 cycles and the tick goes on. -/
theorem OrdinaryPass.goesOn (h : OrdinaryPass s) (hp : atPass s a) (hlt : a + 8 < s.budget) :
    ∃ v, step s = .next v ∧ atPass v (a + 8) ∧ v.acc = some (a + 8) ∧ v.budget = s.budget := by
  obtain ⟨i, t, hi, hcost, hexec, hf, hr, hb⟩ := h
  have hcpu : cpuStep s = .next t := (cpuStep_of_fetches hi).trans hexec
  have hbudget : t.budget = s.budget := cpuStep_budget hcpu
  have hhalted : t.halted = false := (cpuStep_keeps hcpu).2.1.trans (State.ready_eq_true_iff.1 hp.1).2.1
  have hstep := step_of_fetches hp hi hexec
  rw [stepCost_of_fetches hi, if_neg hcost, State.afterStep_goesOn hf hb hr (hbudget.symm ▸ hlt)] at hstep
  have hready : (t.setAcc (some (a + 8))).ready = true := State.ready_eq_true_iff.2 ⟨hr, hhalted, hf⟩
  exact ⟨_, hstep, ⟨hready, .inl rfl⟩, rfl, hbudget⟩

/-- An ordinary pass that reaches the budget ends the tick. -/
theorem OrdinaryPass.last (h : OrdinaryPass s) (hp : atPass s a) (hle : s.budget ≤ a + 8) :
    ∃ v, step s = .next v ∧ v.acc = none := by
  obtain ⟨i, t, hi, hcost, hexec, hf, hr, hb⟩ := h
  have hbudget : t.budget = s.budget := cpuStep_budget ((cpuStep_of_fetches hi).trans hexec)
  have hstep := step_of_fetches hp hi hexec
  rw [stepCost_of_fetches hi, if_neg hcost, State.afterStep_last hf hb (.inr (hbudget.symm ▸ hle))] at hstep
  exact ⟨_, hstep, rfl⟩

/-- After `k` ordinary passes, under budget, the tick has used `8 * k` cycles. -/
theorem reaches_ordinary (h0 : atPass s 0) (hord : ∀ k u, 8 * k < s.budget → reaches k s u → OrdinaryPass u)
    (hk : 8 * k < s.budget) : ∃ u, reaches k s u ∧ atPass u (8 * k) ∧ u.budget = s.budget ∧ (0 < k → u.acc = some (8 * k)) := by
  induction k with
  | zero => exact ⟨s, rfl, h0, rfl, fun h => absurd h (by decide)⟩
  | succ k ih =>
    obtain ⟨u, hu, hp, hb, -⟩ := ih (by omega)
    obtain ⟨v, hstep, hp', hacc, hb'⟩ := (hord k u (by omega) hu).goesOn hp (by omega)
    exact ⟨v, reaches_succ hu hstep, hp', hb'.trans hb, fun _ => hacc⟩

/-! ### The spec's loop (R258) -/

theorem State.setAcc_none (h : s.acc = none) : s.setAcc none = s := by
  rw [← h]
  rfl

/-- A step of the CPU does not read the cycles used. -/
theorem cpuStep_setAcc (x : Option Nat) (h : cpuStep s = .next t) : cpuStep (s.setAcc x) = .next (t.setAcc x) := by
  obtain ⟨hhost, hhalted, -⟩ := cpuStep_keeps h
  calc cpuStep (s.setAcc x)
    _ = cpuStep (s.withUnread s.breakpoints s.halted x s.hostCalls s.quirks.hiresDrawFlag) := rfl
    _ = .next (t.withUnread s.breakpoints s.halted x s.hostCalls s.quirks.hiresDrawFlag) := cpuStep_withUnread _ _ _ _ _ h
    _ = .next (t.setAcc x) := by rw [← hhost.breakpoints, ← hhalted, ← hhost.hostCalls, ← hhost.quirks]; rfl

/-- A pass is given the cycles used and does not read those the state holds. -/
theorem runCycle_setAcc (a : Nat) (s : State) (x : Option Nat) : runCycle a (s.setAcc x) = runCycle a s := by
  obtain ⟨t, ht⟩ := cpuStep_answers s
  rw [runCycle_of_next ht, runCycle_of_next (cpuStep_setAcc x ht)]
  rfl

/-- A pass that goes on has a cost. -/
theorem stepCost_pos (h : cpuStep s = .next t) (hf : t.fault = none) (hb : 0 < s.budget) : 0 < stepCost s := by
  obtain ⟨_, _, rfl⟩ | ⟨i, hi, -⟩ := cpuStep_cases h
  · cases hf
  · rw [stepCost_of_ok hi, State.cost]
    split_ifs
    · exact hb
    · decide

theorem tickLoop_budget (fuel : Nat) (h : s.budget ≤ a) : tickLoop (fuel + 1) a s = .next s.tickTimers := by
  rw [tickLoop, if_pos h]

theorem tickLoop_pass (fuel : Nat) (h : a < s.budget) (ht : cpuStep s = .next t) :
    tickLoop (fuel + 1) a s =
      if t.fault.isSome then .next t
      else if t.breakpoints.contains t.pc then .next (t.setHalted true)
      else if !t.running then .next t.tickTimers
      else tickLoop fuel (a + stepCost s) t := by
  rw [tickLoop, if_neg (by omega), ht]

/-- A pass that does not end the tick leaves its cycle count and nothing else. -/
theorem State.afterStep_of_acc_ne_none (h : (t.afterStep c).acc ≠ none) :
    t.fault = none ∧ t.breakpoints.contains t.pc = false ∧ t.running = true ∧ c < t.budget ∧
      t.afterStep c = t.setAcc (some c) := by
  obtain ⟨-, he⟩ | ⟨-, -, he⟩ | ⟨-, -, -, he⟩ | hgo := t.afterStep_cases c
  · exact absurd (congrArg State.acc he) h
  · exact absurd (congrArg State.acc he) h
  · exact absurd (congrArg State.acc he) h
  · exact hgo

/-- A pass that ends the tick ends the loop. -/
theorem tickLoop_ends {fuel : Nat} (hlt : a < s.budget) (ht : cpuStep s = .next t) (hacc : t.acc = none)
    (hend : (t.afterStep (a + stepCost s)).acc = none) :
    tickLoop (fuel + 2) a s = .next (t.afterStep (a + stepCost s)) := by
  rw [tickLoop_pass (fuel + 1) hlt ht]
  obtain ⟨hf, he⟩ | ⟨hf, hb, he⟩ | ⟨hf, hb, hlast, he⟩ | ⟨-, -, -, -, he⟩ := t.afterStep_cases (a + stepCost s)
  · rw [if_pos hf, he, State.setAcc_none hacc]
  · rw [hf, if_neg (by decide), if_pos hb, he, State.setAcc_none (s := t.setHalted true) hacc]
  · rw [hf, if_neg (by decide), hb, if_neg (by decide), he, State.setAcc_none (s := t.tickTimers) hacc]
    obtain hstop | hle := hlast
    · rw [hstop, if_pos (by decide)]
    · rw [tickLoop_budget fuel hle, ite_self]
  · rw [he] at hend
    cases hend

/-- A pass that goes on is followed by the rest of the loop. -/
theorem tickLoop_goesOn {fuel : Nat} (hlt : a < s.budget) (ht : cpuStep s = .next t) (hf : t.fault = none)
    (hb : t.breakpoints.contains t.pc = false) (hr : t.running = true) :
    tickLoop (fuel + 1) a s = tickLoop fuel (a + stepCost s) t := by
  rw [tickLoop_pass fuel hlt ht, hf, if_neg (by decide), hb, if_neg (by decide), hr, if_neg (by decide)]

theorem step_setAcc (hr : s.ready = true) (a : Nat) : step (s.setAcc (some a)) = runCycle a s :=
  calc step (s.setAcc (some a))
    _ = continueTick a (s.setAcc (some a)) := step_in_tick rfl
    _ = runCycle a (s.setAcc (some a)) := continueTick_ready a hr
    _ = runCycle a s := runCycle_setAcc a s _

/-- From a pass at `a` cycles used the loop of `tick` ends where the steps of the machine end: `n` steps after that pass, fewer
than the cycles left, and a tick is running in between. -/
theorem tickLoop_runs (fuel a : Nat) {s : State} (hacc : s.acc = none) (hr : s.ready = true) (hlt : a < s.budget)
    (hfuel : s.budget < a + fuel) :
    ∃ n v t, a + n < s.budget ∧ runCycle a s = .next v ∧ reaches n v t ∧ tickLoop fuel a s = .next t ∧ t.acc = none ∧
      ∀ k w, k < n → reaches k v w → w.acc ≠ none := by
  induction fuel generalizing a s with
  | zero => omega
  | succ fuel ih =>
    obtain ⟨t, ht⟩ := cpuStep_answers s
    obtain ⟨-, hhalted, hacc'⟩ := cpuStep_keeps ht
    rw [hacc] at hacc'
    have hbudget := cpuStep_budget ht
    have hcycle := runCycle_of_next (a := a) ht
    by_cases hend : (t.afterStep (a + stepCost s)).acc = none
    · obtain ⟨fuel, rfl⟩ : ∃ f, fuel = f + 1 := ⟨fuel - 1, by omega⟩
      exact ⟨0, _, _, hlt, hcycle, rfl, tickLoop_ends hlt ht hacc' hend, hend, fun k _ hk => absurd hk (Nat.not_lt_zero k)⟩
    · obtain ⟨hf, hb, hrun, hgo, he⟩ := State.afterStep_of_acc_ne_none hend
      have hcost := stepCost_pos ht hf (by omega)
      have hready : t.ready = true :=
        State.ready_eq_true_iff.2 ⟨hrun, hhalted.trans (State.ready_eq_true_iff.1 hr).2.1, hf⟩
      obtain ⟨n, v, w, hn, hv, hreach, hloop, hw, hbetween⟩ := ih (a + stepCost s) hacc' hready hgo (by omega)
      have hstep : step (t.afterStep (a + stepCost s)) = .next v := by rw [he, step_setAcc hready, hv]
      refine ⟨n + 1, _, w, by omega, hcycle, (reaches_succ_iff hstep).2 hreach, (tickLoop_goesOn hlt ht hf hb hrun).trans hloop,
        hw, fun k u hk hu => ?_⟩
      cases k with
      | zero => cases hu; exact hend
      | succ k => exact hbetween k u (by omega) ((reaches_succ_iff hstep).1 hu)

end Sys2Proof.Machine

namespace Sys2Proof.Proofs

open Sys2Proof.Machine

/-- Settles O8: a tick that runs no step is one model step, and any other is its first pass and the steps of `tickLoop_runs`. -/
theorem stepsOfATickAreTheSpecsTick : Obligations.StepsOfATickAreTheSpecsTick := by
  unfold Obligations.StepsOfATickAreTheSpecsTick
  intro s hacc hcalls
  have hstep := step_idle hacc hcalls
  cases hr : s.ready with
  | false =>
    rw [beginTick_notReady hr] at hstep
    refine ⟨1, s, by decide, by omega, ?_, hacc, (reaches_succ_iff hstep).2 rfl, by omega⟩
    rw [tick, hr, if_neg (by decide)]
  | true =>
    by_cases hb : s.budget = 0
    · rw [beginTick_noBudget hr hb] at hstep
      refine ⟨1, s.tickTimers, by decide, by omega, ?_, hacc, (reaches_succ_iff hstep).2 rfl, by omega⟩
      rw [tick, if_pos hr, tickLoop_budget _ (by omega)]
    · rw [beginTick_budget hr hb] at hstep
      obtain ⟨n, v, t, hn, hv, hreach, hloop, ht, hbetween⟩ :=
        tickLoop_runs (s.budget + 1) 0 hacc hr (by omega) (by omega)
      rw [hv] at hstep
      refine ⟨n + 1, t, by omega, by omega, ?_, ht, (reaches_succ_iff hstep).2 hreach, fun k u hk hkn hu => ?_⟩
      · rw [tick, if_pos hr, hloop]
      · obtain ⟨k, rfl⟩ : ∃ j, k = j + 1 := ⟨k - 1, by omega⟩
        exact hbetween k u (by omega) ((reaches_succ_iff hstep).1 hu)

/-- Settles O9: pass `k` starts with `8 * k` cycles used, so the first to reach the budget is pass `ceil(B/8)`. -/
theorem ordinaryTickRunsCeilingOfBudgetSteps : Obligations.OrdinaryTickRunsCeilingOfBudgetSteps := by
  unfold Obligations.OrdinaryTickRunsCeilingOfBudgetSteps
  intro s hacc hcalls hr hb hord
  have hord' : ∀ k u, 8 * k < s.budget → Claims.reaches k s u → OrdinaryPass u := fun k u hk => hord k u (by omega)
  have hstart : Claims.atPass s 0 := ⟨hr, .inr ⟨hacc, hcalls, rfl, hb⟩⟩
  refine ⟨?last, fun k u hk hkn hu => ?between⟩
  case last =>
    obtain ⟨k, hk⟩ : ∃ k, (s.budget + 7) / 8 = k + 1 := ⟨(s.budget + 7) / 8 - 1, by omega⟩
    obtain ⟨u, hu, hp, hbudget, -⟩ := reaches_ordinary (k := k) hstart hord' (by omega)
    obtain ⟨v, hstep, hv⟩ := (hord' k u (by omega) hu).last hp (by omega)
    rw [hk]
    exact ⟨v, reaches_succ hu hstep, hv⟩
  case between =>
    obtain ⟨v, hv, -, -, hcount⟩ := reaches_ordinary (k := k) hstart hord' (by omega)
    rw [reaches_unique hu hv]
    exact hcount hk

end Sys2Proof.Proofs
end
